-- ==== Sys2Proof/Word.lean ====
section
/-! DEFINITION. The words of the machine: spec/00_scope.md R6 (widths) and R8 (bit 0 is the least
significant bit of any value). Every value is an unsigned integer (R9). -/

namespace Sys2Proof

/-- An 8-bit value: a V register, a memory byte, an immediate `kk` (R6 `XLEN`). -/
abbrev Byte := BitVec 8

/-- A 16-bit value: an instruction word, `I`, `PC`, a stack entry, the input latch (R6). -/
abbrev Word := BitVec 16

/-- A 12-bit address immediate `nnn` (R77). -/
abbrev Addr12 := BitVec 12

/-- The number of a general register `V0`..`VF` (R20). -/
abbrev Reg := Fin 16

end Sys2Proof
end

