-- ==== Sys2Proof/Config.lean ====
section
/-! DEFINITION. What is fixed for this hardware (spec/00_scope.md R6) and the free values of a step
(R7). The contents of memory at reset (FONT, INIT_RAM) stand in Machine/Memory.lean. -/

namespace Sys2Proof

/-- `MEM_SIZE`: addresses 0x000 to 0xFFF (R6). -/
abbrev Config.memSize : Nat := 0x1000

/-- The last address of memory, 0xFFF (R58). -/
abbrev Config.lastAddr : Nat := 0xFFF

/-- `PC_LIMIT`: a PC greater than or equal to this is out of range (R6, R27, conflict C2). -/
abbrev Config.pcLimit : Nat := 0xFFF

/-- `STACK_DEPTH`: the call stack's capacity (R6, R29). -/
abbrev Config.stackDepth : Nat := 16

/-- `DISP_W` (R6, R30). -/
abbrev Config.dispW : Nat := 64

/-- `DISP_H` (R6, R30). -/
abbrev Config.dispH : Nat := 32

/-- `SPRITE_W` (R6). -/
abbrev Config.spriteW : Nat := 8

/-- `SPRITE_H_MAX`: the largest value of the 4-bit field `n` (R6, R155). -/
abbrev Config.spriteHMax : Nat := 15

/-- `FONT_SIZE` (R6, R52). -/
abbrev Config.fontSize : Nat := 80

/-- `PROG_BASE` (R6, R53). -/
abbrev Config.progBase : Nat := 0x200

/-- `PROG_MAX`: the largest program image in bytes (R6, R53, conflict C3). -/
abbrev Config.progMax : Nat := 0xDFF

/-- FREE VALUE (DESIGN CHOICE, log entry 1, safe): the input latch the host presents to the step number
`tick`, "chosen freely by the host for every step" (R31, R98, D17, U2). It has no body: nothing is known of it. -/
opaque Config.hostKeys : Nat → Word

/-- FREE VALUE (DESIGN CHOICE, log entry 2, safe): the random byte given to the step number `tick`, "a free
8-bit input of each step, under no law" (R32, D7, U1). It has no body: nothing is known of it. -/
opaque Config.hostRnd : Nat → Byte

end Sys2Proof
end

