-- ==== Sys2Proof/Syntax.lean ====
section
/-! DEFINITION. The 34 instructions of spec/30_encoding.md R81, one constructor per row of
spec/opcode_table.json, with the operands of R77. -/

namespace Sys2Proof

/-- An instruction with its operands. `x`, `y` are register numbers, `kk` the immediate byte, `nnn` the
address immediate, `n` the number of sprite rows (R77). -/
inductive Instr where
  /-- `00E0` CLS (R150). -/
  | cls
  /-- `00EE` RET (R100). -/
  | ret
  /-- `1nnn` JP nnn (R101). -/
  | jp (nnn : Addr12)
  /-- `2nnn` CALL nnn (R102). -/
  | call (nnn : Addr12)
  /-- `3xkk` SE Vx, kk (R103). -/
  | seImm (x : Reg) (kk : Byte)
  /-- `4xkk` SNE Vx, kk (R104). -/
  | sneImm (x : Reg) (kk : Byte)
  /-- `5xy0` SE Vx, Vy (R105). -/
  | seReg (x y : Reg)
  /-- `6xkk` LD Vx, kk (R120). -/
  | ldImm (x : Reg) (kk : Byte)
  /-- `7xkk` ADD Vx, kk (R121). -/
  | addImm (x : Reg) (kk : Byte)
  /-- `8xy0` LD Vx, Vy (R122). -/
  | ldReg (x y : Reg)
  /-- `8xy1` OR Vx, Vy (R123). -/
  | orReg (x y : Reg)
  /-- `8xy2` AND Vx, Vy (R124). -/
  | andReg (x y : Reg)
  /-- `8xy3` XOR Vx, Vy (R125). -/
  | xorReg (x y : Reg)
  /-- `8xy4` ADD Vx, Vy (R126). -/
  | addReg (x y : Reg)
  /-- `8xy5` SUB Vx, Vy (R127). -/
  | subReg (x y : Reg)
  /-- `8xy6` SHR Vx (R128); `y` is encoded and not used (R84). -/
  | shr (x y : Reg)
  /-- `8xy7` SUBN Vx, Vy (R129). -/
  | subnReg (x y : Reg)
  /-- `8xyE` SHL Vx (R130); `y` is encoded and not used (R84). -/
  | shl (x y : Reg)
  /-- `9xy0` SNE Vx, Vy (R106). -/
  | sneReg (x y : Reg)
  /-- `Annn` LD I, nnn (R140). -/
  | ldI (nnn : Addr12)
  /-- `Bnnn` JP V0, nnn (R107). -/
  | jpV0 (nnn : Addr12)
  /-- `Cxkk` RND Vx, kk (R131). -/
  | rnd (x : Reg) (kk : Byte)
  /-- `Dxyn` DRW Vx, Vy, n (R151); `n` is a count of rows, 0 to 15 in every encoded word (R155). -/
  | drw (x y : Reg) (n : Nat)
  /-- `Ex9E` SKP Vx (R108). -/
  | skp (x : Reg)
  /-- `ExA1` SKNP Vx (R109). -/
  | sknp (x : Reg)
  /-- `Fx07` LD Vx, DT (R160). -/
  | ldVxDT (x : Reg)
  /-- `Fx0A` LD Vx, K (R161). -/
  | ldVxK (x : Reg)
  /-- `Fx15` LD DT, Vx (R162). -/
  | ldDTVx (x : Reg)
  /-- `Fx18` LD ST, Vx (R163). -/
  | ldSTVx (x : Reg)
  /-- `Fx1E` ADD I, Vx (R141). -/
  | addI (x : Reg)
  /-- `Fx29` LD F, Vx (R142). -/
  | ldF (x : Reg)
  /-- `Fx33` LD B, Vx (R143). -/
  | ldB (x : Reg)
  /-- `Fx55` LD [I], Vx (R144). -/
  | storeRegs (x : Reg)
  /-- `Fx65` LD Vx, [I] (R145). -/
  | loadRegs (x : Reg)
  deriving DecidableEq, Repr

end Sys2Proof
end

