-- ==== Sys2Proof/WellFormed.lean ====
section
/-! DEFINITION. Which terms of `Instr` stand for an instruction word. The register fields and the immediates
carry their width in their type, and no combination of them is illegal (spec/30_encoding.md R84), so the one
check is the sprite height of `Dxyn`, a count with 0 to 15 rows (spec/44_display.md R155, conflict C4). -/

namespace Sys2Proof

/-- `n` fits the 4-bit field of `Dxyn` (R77, R155). -/
def spriteHeightOk (n : Nat) : Bool := decide (n ≤ Config.spriteHMax)

/-- The check on every instruction. -/
def Instr.wellFormed : Instr → Bool
  | .drw _ _ n => spriteHeightOk n
  | .cls | .ret | .jp _ | .call _ | .seImm _ _ | .sneImm _ _ | .seReg _ _ | .ldImm _ _ | .addImm _ _
  | .ldReg _ _ | .orReg _ _ | .andReg _ _ | .xorReg _ _ | .addReg _ _ | .subReg _ _ | .shr _ _
  | .subnReg _ _ | .shl _ _ | .sneReg _ _ | .ldI _ | .jpV0 _ | .rnd _ _ | .skp _ | .sknp _ | .ldVxDT _
  | .ldVxK _ | .ldDTVx _ | .ldSTVx _ | .addI _ | .ldF _ | .ldB _ | .storeRegs _ | .loadRegs _ => true

/-- The check as a proposition. -/
abbrev Instr.WellFormed (i : Instr) : Prop := i.wellFormed = true

end Sys2Proof
end

