-- ==== Sys2Proof/Decode.lean ====
section
/-! DEFINITION. The decoder of spec/30_encoding.md R76 to R84, total on words and on byte strings, rejecting by
name; after it the encoder, and the opcode map of R81 as a table. -/

namespace Sys2Proof

/-- Why a word (or byte string) is no instruction: one name per row of R82's table of illegal words. All are
safe: the step that meets one takes the halt `InvalidOpcode` (R173). -/
inductive DecodeReject where
  /-- `0nnn` other than `00E0` and `00EE` (D22). -/
  | type0
  /-- `5xyn` with `n` not 0. -/
  | type5
  /-- `8xyn` with `n` in 8..D or F. -/
  | type8
  /-- `9xyn` with `n` not 0. -/
  | type9
  /-- `Exkk` with `kk` not 9E or A1. -/
  | typeE
  /-- `Fxkk` with `kk` none of the nine function codes. -/
  | typeF
  /-- Fewer than two bytes; no step raises it, since a fetch always reads two (R59, R75). -/
  | truncated
  deriving DecidableEq, Repr

/-! ### Fields (R77) -/

/-- A 4-bit field as a register number. -/
def regOfBits (b : BitVec 4) : Reg := ⟨b.toNat, b.isLt⟩

/-- A register number as a 4-bit field. -/
def regBits (r : Reg) : BitVec 4 := BitVec.ofNat 4 r.val

/-- `type = op[15:12]`. -/
def fieldType (op : Word) : BitVec 4 := op.extractLsb' 12 4

/-- `x = op[11:8]`. -/
def fieldX (op : Word) : Reg := regOfBits (op.extractLsb' 8 4)

/-- `y = op[7:4]`. -/
def fieldY (op : Word) : Reg := regOfBits (op.extractLsb' 4 4)

/-- `n = op[3:0]`. -/
def fieldN (op : Word) : BitVec 4 := op.extractLsb' 0 4

/-- `kk = op[7:0]`. -/
def fieldKK (op : Word) : Byte := op.extractLsb' 0 8

/-- `nnn = op[11:0]`. -/
def fieldNNN (op : Word) : Addr12 := op.extractLsb' 0 12

/-! ### Decoding (R80) -/

/-- Type 0 is matched on all 16 bits (D22). -/
def decodeType0 (op : Word) : Except DecodeReject Instr :=
  if op = 0x00E0#16 then .ok .cls
  else if op = 0x00EE#16 then .ok .ret
  else .error .type0

/-- Type 8: the function code is `n`. -/
def decodeType8 (op : Word) : Except DecodeReject Instr :=
  match (fieldN op).toNat with
  | 0x0 => .ok (.ldReg (fieldX op) (fieldY op))
  | 0x1 => .ok (.orReg (fieldX op) (fieldY op))
  | 0x2 => .ok (.andReg (fieldX op) (fieldY op))
  | 0x3 => .ok (.xorReg (fieldX op) (fieldY op))
  | 0x4 => .ok (.addReg (fieldX op) (fieldY op))
  | 0x5 => .ok (.subReg (fieldX op) (fieldY op))
  | 0x6 => .ok (.shr (fieldX op) (fieldY op))
  | 0x7 => .ok (.subnReg (fieldX op) (fieldY op))
  | 0xE => .ok (.shl (fieldX op) (fieldY op))
  | _ => .error .type8

/-- Type E: the function code is `kk`. -/
def decodeTypeE (op : Word) : Except DecodeReject Instr :=
  match (fieldKK op).toNat with
  | 0x9E => .ok (.skp (fieldX op))
  | 0xA1 => .ok (.sknp (fieldX op))
  | _ => .error .typeE

/-- Type F: the function code is `kk`. -/
def decodeTypeF (op : Word) : Except DecodeReject Instr :=
  match (fieldKK op).toNat with
  | 0x07 => .ok (.ldVxDT (fieldX op))
  | 0x0A => .ok (.ldVxK (fieldX op))
  | 0x15 => .ok (.ldDTVx (fieldX op))
  | 0x18 => .ok (.ldSTVx (fieldX op))
  | 0x1E => .ok (.addI (fieldX op))
  | 0x29 => .ok (.ldF (fieldX op))
  | 0x33 => .ok (.ldB (fieldX op))
  | 0x55 => .ok (.storeRegs (fieldX op))
  | 0x65 => .ok (.loadRegs (fieldX op))
  | _ => .error .typeF

/-- The decoder: a total function from a 16-bit word to an instruction or a named rejection (R80). -/
def decode (op : Word) : Except DecodeReject Instr :=
  match (fieldType op).toNat with
  | 0x0 => decodeType0 op
  | 0x1 => .ok (.jp (fieldNNN op))
  | 0x2 => .ok (.call (fieldNNN op))
  | 0x3 => .ok (.seImm (fieldX op) (fieldKK op))
  | 0x4 => .ok (.sneImm (fieldX op) (fieldKK op))
  | 0x5 => if fieldN op = 0#4 then .ok (.seReg (fieldX op) (fieldY op)) else .error .type5
  | 0x6 => .ok (.ldImm (fieldX op) (fieldKK op))
  | 0x7 => .ok (.addImm (fieldX op) (fieldKK op))
  | 0x8 => decodeType8 op
  | 0x9 => if fieldN op = 0#4 then .ok (.sneReg (fieldX op) (fieldY op)) else .error .type9
  | 0xA => .ok (.ldI (fieldNNN op))
  | 0xB => .ok (.jpV0 (fieldNNN op))
  | 0xC => .ok (.rnd (fieldX op) (fieldKK op))
  | 0xD => .ok (.drw (fieldX op) (fieldY op) (fieldN op).toNat)
  | 0xE => decodeTypeE op
  | _ => decodeTypeF op   -- a 4-bit type is at most 0xF

/-- The word of two bytes, "combine big-endian": the byte at the lower address is `op[15:8]` (R56, R76). -/
def wordOfBytes (hi lo : Byte) : Word := hi ++ lo

/-- Decoding from a byte string: one instruction and the bytes after it; every instruction is 2 bytes (R75). -/
def decodeBytes : List Byte → Except DecodeReject (Instr × List Byte)
  | hi :: lo :: rest =>
    match decode (wordOfBytes hi lo) with
    | .ok i => .ok (i, rest)
    | .error e => .error e
  | [] => .error .truncated
  | [_] => .error .truncated

/-- The high byte `op[15:8]`, the one at the lower address (R76). -/
def highByte (op : Word) : Byte := op.extractLsb' 8 8

/-- The low byte `op[7:0]` (R76). -/
def lowByte (op : Word) : Byte := op.extractLsb' 0 8

/-- The instruction word the host's table number `w` of `nbits` bits stands for: the bits above `nbits` are 0. -/
def tableWord (nbits w : Nat) : Word := BitVec.ofNat 16 (w % 2 ^ nbits)

/-- The instruction the decoder reads from a table word laid out as the hardware stores it, high byte first. -/
def decodeTableWord (nbits w : Nat) : Option Instr :=
  match decodeBytes [highByte (tableWord nbits w), lowByte (tableWord nbits w)] with
  | .ok (i, _) => some i
  | .error _ => none

/-! ### Encoding (R78, R81) -/

/-- Format A: type, nnn. -/
def formatA (type : BitVec 4) (nnn : Addr12) : Word := type ++ nnn

/-- Format I: type, x, kk. Format F is the same layout with the function code in the place of kk. -/
def formatI (type : BitVec 4) (x : Reg) (kk : Byte) : Word := type ++ regBits x ++ kk

/-- Format R: type, x, y, function. Format D is the same layout with the count in the last place. -/
def formatR (type : BitVec 4) (x y : Reg) (n : BitVec 4) : Word := type ++ regBits x ++ regBits y ++ n

/-- The word of an instruction, from the patterns of R81. Exact on well-formed instructions; a sprite height
above 15 (no word has one, R155) is cut to 4 bits. -/
def encode : Instr → Word
  | .cls => 0x00E0#16
  | .ret => 0x00EE#16
  | .jp nnn => formatA 0x1#4 nnn
  | .call nnn => formatA 0x2#4 nnn
  | .seImm x kk => formatI 0x3#4 x kk
  | .sneImm x kk => formatI 0x4#4 x kk
  | .seReg x y => formatR 0x5#4 x y 0x0#4
  | .ldImm x kk => formatI 0x6#4 x kk
  | .addImm x kk => formatI 0x7#4 x kk
  | .ldReg x y => formatR 0x8#4 x y 0x0#4
  | .orReg x y => formatR 0x8#4 x y 0x1#4
  | .andReg x y => formatR 0x8#4 x y 0x2#4
  | .xorReg x y => formatR 0x8#4 x y 0x3#4
  | .addReg x y => formatR 0x8#4 x y 0x4#4
  | .subReg x y => formatR 0x8#4 x y 0x5#4
  | .shr x y => formatR 0x8#4 x y 0x6#4
  | .subnReg x y => formatR 0x8#4 x y 0x7#4
  | .shl x y => formatR 0x8#4 x y 0xE#4
  | .sneReg x y => formatR 0x9#4 x y 0x0#4
  | .ldI nnn => formatA 0xA#4 nnn
  | .jpV0 nnn => formatA 0xB#4 nnn
  | .rnd x kk => formatI 0xC#4 x kk
  | .drw x y n => formatR 0xD#4 x y (BitVec.ofNat 4 n)
  | .skp x => formatI 0xE#4 x 0x9E#8
  | .sknp x => formatI 0xE#4 x 0xA1#8
  | .ldVxDT x => formatI 0xF#4 x 0x07#8
  | .ldVxK x => formatI 0xF#4 x 0x0A#8
  | .ldDTVx x => formatI 0xF#4 x 0x15#8
  | .ldSTVx x => formatI 0xF#4 x 0x18#8
  | .addI x => formatI 0xF#4 x 0x1E#8
  | .ldF x => formatI 0xF#4 x 0x29#8
  | .ldB x => formatI 0xF#4 x 0x33#8
  | .storeRegs x => formatI 0xF#4 x 0x55#8
  | .loadRegs x => formatI 0xF#4 x 0x65#8

/-! ### The opcode map (R81) -/

/-- One row of R81's table: a word `op` selects it exactly when `op &&& mask = pattern`. -/
structure OpcodeRow where
  pattern : Word
  mask : Word
  deriving DecidableEq, Repr

/-- `op & mask = match` (R81). -/
abbrev OpcodeRow.selects (row : OpcodeRow) (op : Word) : Prop := op &&& row.mask = row.pattern

/-- The row of R81's table each instruction stands in. -/
def Instr.row : Instr → OpcodeRow
  | .cls => ⟨0x00E0, 0xFFFF⟩
  | .ret => ⟨0x00EE, 0xFFFF⟩
  | .jp _ => ⟨0x1000, 0xF000⟩
  | .call _ => ⟨0x2000, 0xF000⟩
  | .seImm _ _ => ⟨0x3000, 0xF000⟩
  | .sneImm _ _ => ⟨0x4000, 0xF000⟩
  | .seReg _ _ => ⟨0x5000, 0xF00F⟩
  | .ldImm _ _ => ⟨0x6000, 0xF000⟩
  | .addImm _ _ => ⟨0x7000, 0xF000⟩
  | .ldReg _ _ => ⟨0x8000, 0xF00F⟩
  | .orReg _ _ => ⟨0x8001, 0xF00F⟩
  | .andReg _ _ => ⟨0x8002, 0xF00F⟩
  | .xorReg _ _ => ⟨0x8003, 0xF00F⟩
  | .addReg _ _ => ⟨0x8004, 0xF00F⟩
  | .subReg _ _ => ⟨0x8005, 0xF00F⟩
  | .shr _ _ => ⟨0x8006, 0xF00F⟩
  | .subnReg _ _ => ⟨0x8007, 0xF00F⟩
  | .shl _ _ => ⟨0x800E, 0xF00F⟩
  | .sneReg _ _ => ⟨0x9000, 0xF00F⟩
  | .ldI _ => ⟨0xA000, 0xF000⟩
  | .jpV0 _ => ⟨0xB000, 0xF000⟩
  | .rnd _ _ => ⟨0xC000, 0xF000⟩
  | .drw _ _ _ => ⟨0xD000, 0xF000⟩
  | .skp _ => ⟨0xE09E, 0xF0FF⟩
  | .sknp _ => ⟨0xE0A1, 0xF0FF⟩
  | .ldVxDT _ => ⟨0xF007, 0xF0FF⟩
  | .ldVxK _ => ⟨0xF00A, 0xF0FF⟩
  | .ldDTVx _ => ⟨0xF015, 0xF0FF⟩
  | .ldSTVx _ => ⟨0xF018, 0xF0FF⟩
  | .addI _ => ⟨0xF01E, 0xF0FF⟩
  | .ldF _ => ⟨0xF029, 0xF0FF⟩
  | .ldB _ => ⟨0xF033, 0xF0FF⟩
  | .storeRegs _ => ⟨0xF055, 0xF0FF⟩
  | .loadRegs _ => ⟨0xF065, 0xF0FF⟩

/-- R81's table, rows 1 to 34 in order. -/
def opcodeTable : List OpcodeRow :=
  [⟨0x00E0, 0xFFFF⟩, ⟨0x00EE, 0xFFFF⟩, ⟨0x1000, 0xF000⟩, ⟨0x2000, 0xF000⟩, ⟨0x3000, 0xF000⟩, ⟨0x4000, 0xF000⟩,
    ⟨0x5000, 0xF00F⟩, ⟨0x6000, 0xF000⟩, ⟨0x7000, 0xF000⟩] ++
  [⟨0x8000, 0xF00F⟩, ⟨0x8001, 0xF00F⟩, ⟨0x8002, 0xF00F⟩, ⟨0x8003, 0xF00F⟩, ⟨0x8004, 0xF00F⟩, ⟨0x8005, 0xF00F⟩,
    ⟨0x8006, 0xF00F⟩, ⟨0x8007, 0xF00F⟩, ⟨0x800E, 0xF00F⟩, ⟨0x9000, 0xF00F⟩] ++
  [⟨0xA000, 0xF000⟩, ⟨0xB000, 0xF000⟩, ⟨0xC000, 0xF000⟩, ⟨0xD000, 0xF000⟩, ⟨0xE09E, 0xF0FF⟩, ⟨0xE0A1, 0xF0FF⟩,
    ⟨0xF007, 0xF0FF⟩, ⟨0xF00A, 0xF0FF⟩, ⟨0xF015, 0xF0FF⟩] ++
  [⟨0xF018, 0xF0FF⟩, ⟨0xF01E, 0xF0FF⟩, ⟨0xF029, 0xF0FF⟩, ⟨0xF033, 0xF0FF⟩, ⟨0xF055, 0xF0FF⟩, ⟨0xF065, 0xF0FF⟩]

end Sys2Proof
end

