-- ==== Sys2Proof/Machine/State.lean ====
section
/-! DEFINITION. The state of the machine as plain data: every piece of state of spec/10_state.md, the inputs of
a step (R7, R31, R32), the fault and refusal names, and the state after reset (R40). -/

namespace Sys2Proof.Machine

/-- The kinds of halt (spec/60_exceptions.md R170), by name (D13). -/
inductive HaltKind where
  /-- `2nnn` at depth 16 (R171). -/
  | stackOverflow
  /-- `00EE` on an empty stack (R172). -/
  | stackUnderflow
  /-- The fetched word is no instruction (R173). -/
  | invalidOpcode
  /-- The step began with `PC >= 0xFFF` (R174). -/
  | programCounterOutOfRange
  /-- `Dxyn`, `Fx33`, `Fx55` or `Fx65` names an address above 0xFFF (R175, D3). -/
  | memoryOutOfRange
  deriving DecidableEq, Repr

/-- The halt record: the kind, the value of `PC` at the report, and the fetched word, none where nothing was
fetched (R179, D12). -/
structure HaltRecord where
  kind : HaltKind
  pc : Word
  opcode : Option Word
  deriving DecidableEq, Repr

/-- Memory as the bytes that differ from what an unlisted address reads as, addresses strictly rising
(`Memory.wf` in Machine/Memory.lean). -/
abbrev Memory := List Host.Cell

/-- The display surface, row-major, origin top-left: 32 rows of 64 pixels, true is on (R30). -/
abbrev Display := Vector (Vector Bool 64) 32

/-- Every piece of state the spec gives the machine, and the inputs of a step. -/
structure State where
  /-- The general registers `V0`..`VF` (R20); `VF` doubles as the flag (R21). -/
  v : Vector Byte 16
  /-- The index register `I` (R23). -/
  index : Word
  /-- The program counter (R24). -/
  pc : Word
  /-- The call stack, newest last (R29). -/
  stack : List Word
  /-- Main memory (R33). -/
  mem : Memory
  /-- The display surface (R30). -/
  disp : Display
  /-- The halt latch (R34). -/
  halt : Option HaltRecord
  /-- The input latch as the step sees it, bit `k` set when key `k` is held (R31). -/
  keys : Word
  /-- The random byte given to the step (R32). The model's own field; log entry 2. -/
  rnd : Byte
  /-- How many steps have been given inputs. The model's own field; log entry 1. -/
  tick : Nat
  deriving DecidableEq, Repr

/-- Why a step is no transition. -/
inductive Fault where
  /-- Raised by `step` in a state whose halt latch is set: "a halted state has no step" (R96, D11, U7).
  Safe: the model stops where a realisation may ignore the event. Log entry 7. -/
  | halted
  deriving DecidableEq, Repr

/-- Why an instruction has no meaning. -/
inductive Refusal where
  /-- Raised by an arm of `exec` for an instruction the model gives no meaning to. No arm raises it: every
  instruction is modelled. Safe. -/
  | notModelled (mnemonic : String)
  deriving DecidableEq, Repr

/-- What a meaning answers. -/
abbrev Result := Host.Outcome State Fault Refusal

/-- The state after reset (R40): `V`, `I` zero (D8, log entry 6), `PC` 0x0200, empty stack, display all off, latch none,
input latch zeroed; memory as at reset, with an empty program image (log entry 5). `rnd` and `tick` are the
model's own (log entries 1 and 2). -/
def State.reset : State where
  v := Vector.replicate 16 0#8
  index := 0x0000#16
  pc := 0x0200#16
  stack := []
  mem := []
  disp := Vector.replicate 32 (Vector.replicate 64 false)
  halt := none
  keys := 0x0000#16
  rnd := 0x00#8
  tick := 0

end Sys2Proof.Machine
end

