-- ==== Sys2Proof/Machine/Memory.lean ====
section
/-! DEFINITION. Memory (spec/20_memory.md): its contents at reset, reading and writing one byte, the canonical
form, and the two-byte fetch. Range checks stand in Machine/Operands.lean: an access is only made after the whole
range of the instruction was found inside 0 to 0xFFF (R58). -/

namespace Sys2Proof.Machine

/-- The default `FONT`: the family's glyphs 0 to F, five bytes each, row 0 first (R52, D10).
PRESUMED, log entry 3, unsafe. -/
def fontTable : List Byte :=
  [0xF0, 0x90, 0x90, 0x90, 0xF0, 0x20, 0x60, 0x20, 0x20, 0x70, 0xF0, 0x10, 0xF0, 0x80, 0xF0, 0xF0, 0x10, 0xF0, 0x10, 0xF0] ++
  [0x90, 0x90, 0xF0, 0x10, 0x10, 0xF0, 0x80, 0xF0, 0x10, 0xF0, 0xF0, 0x80, 0xF0, 0x90, 0xF0, 0xF0, 0x10, 0x20, 0x40, 0x40] ++
  [0xF0, 0x90, 0xF0, 0x90, 0xF0, 0xF0, 0x90, 0xF0, 0x10, 0xF0, 0xF0, 0x90, 0xF0, 0x90, 0x90, 0xE0, 0x90, 0xE0, 0x90, 0xE0] ++
  [0xF0, 0x80, 0x80, 0x80, 0xF0, 0xE0, 0x90, 0x90, 0x90, 0xE0, 0xF0, 0x80, 0xF0, 0x80, 0xF0, 0xF0, 0x80, 0xF0, 0x80, 0x80]

/-- What an unlisted address reads as: the font at 0x000 to 0x04F (R52), else `INIT_RAM`'s default 0x00 (R54, D9).
DESIGN CHOICE, log entry 4, unsafe. -/
def unlistedByte (a : Nat) : Byte := fontTable.getD a 0x00#8

/-- `MemRead(a, 1)` (R10, R60). -/
def memRead : Memory → Nat → Byte
  | [], a => unlistedByte a
  | (k, b) :: m, a => if k = a then b else memRead m a

/-- Put a cell in its place among rising addresses. -/
def insertCell (a : Nat) (b : Byte) : Memory → Memory
  | [] => [(a, b)]
  | (k, c) :: m => if a < k then (a, b) :: (k, c) :: m else (k, c) :: insertCell a b m

/-- `MemWrite(a, 1, b)`: changes exactly the addressed byte (R10, R60). Writing what an unlisted address reads as
removes the entry, so that equal memories are equal lists. -/
def memWrite (m : Memory) (a : Nat) (b : Byte) : Memory :=
  if b = unlistedByte a then m.filter (fun c => c.1 ≠ a)
  else insertCell a b (m.filter (fun c => c.1 ≠ a))

/-- Bytes at consecutive rising addresses, one byte at a time. -/
def memWriteList : Memory → Nat → List Byte → Memory
  | m, _, [] => m
  | m, a, b :: bs => memWriteList (memWrite m a b) (a + 1) bs

/-- The canonical form: addresses strictly rising, each inside memory, and no entry equal to what an unlisted
address reads as. The model's own (log entry 8). -/
abbrev Memory.wf (m : Memory) : Prop :=
  List.Pairwise (fun c d : Host.Cell => c.1 < d.1) m ∧
    ∀ c ∈ m, c.1 < Config.memSize ∧ c.2 ≠ unlistedByte c.1

/-- `Fetch16(a)`: two byte reads at consecutive addresses, high byte first (R10, R55, R56, R76). -/
def fetch16 (m : Memory) (a : Nat) : Word := wordOfBytes (memRead m a) (memRead m (a + 1))

end Sys2Proof.Machine
end

