-- ==== Sys2Proof/Machine/Ops.lean ====
section
/-! DEFINITION. The named operations every meaning and the step are written over: registers, `PC`, call stack,
pixels, the halt (the machine's one exception), the inputs of a step, and the parts of the fetch. -/

namespace Sys2Proof.Machine

/-! ### Plain updates, one per part of the state -/

/-- `V[r] <- b` (R10, R20): no register is hard-wired. -/
def setReg (s : State) (r : Reg) (b : Byte) : State := { s with v := s.v.set r.val b r.isLt }

/-- The whole register file. -/
def setRegs (s : State) (v : Vector Byte 16) : State := { s with v := v }

/-- `I <- w` (R23). -/
def setIndex (s : State) (w : Word) : State := { s with index := w }

/-- `PC <- w` (R24). -/
def setPc (s : State) (w : Word) : State := { s with pc := w }

/-- The call stack. -/
def setStack (s : State) (l : List Word) : State := { s with stack := l }

/-- Main memory. -/
def setMem (s : State) (m : Memory) : State := { s with mem := m }

/-- The display surface. -/
def setDisp (s : State) (d : Display) : State := { s with disp := d }

/-- The halt latch. -/
def setHalt (s : State) (h : Option HaltRecord) : State := { s with halt := h }

/-! ### Registers -/

/-- `V[r]` (R10, R20). -/
def reg (s : State) (r : Reg) : Byte := s.v[r.val]

/-- `VF`, register 15, the flag (R21). -/
def vf : Reg := 15

/-- The byte of memory at an address. -/
def readByte (s : State) (a : Nat) : Byte := memRead s.mem a

/-! ### Program counter -/

/-- `PC <- PC + 2`: the pre-advance of the engine (R92; log entry 19). An odd `PC` is legal (R26, log entry 10). -/
def advance (s : State) : State := setPc s (s.pc + 2#16)

/-- `skip`: 2 more on the already advanced PC (R10, R92, conflict C6). -/
def skip (s : State) : State := setPc s (s.pc + 2#16)

/-- A skip taken on a condition. -/
def skipIf (c : Bool) (s : State) : State := setPc s (if c then s.pc + 2#16 else s.pc)

/-! ### Call stack (R29): a list, newest last -/

/-- `push(w)`. -/
def push (s : State) (w : Word) : State := setStack s (s.stack ++ [w])

/-- The call stack is at its capacity (R102; log entry 19 for the states no run reaches). -/
def stackFull (s : State) : Bool := decide (Config.stackDepth ≤ s.stack.length)

/-! ### Display (R30) -/

/-- `Pix[px, py]`, the pixel in column `px` of row `py`; off the surface there is none, read as off. -/
def pixelOf (d : Display) (px py : Nat) : Bool :=
  if h : px < Config.dispW ∧ py < Config.dispH then (d[py]'h.2)[px]'h.1 else false

/-- `Pix[px, py] <- b`; off the surface nothing. -/
def setPixelOf (d : Display) (px py : Nat) (b : Bool) : Display :=
  if h : px < Config.dispW ∧ py < Config.dispH then d.set py ((d[py]'h.2).set px b h.1) h.2 else d

/-- The pixel of a state's display. -/
def pixel (s : State) (px py : Nat) : Bool := pixelOf s.disp px py

/-- The display with every pixel off. -/
def blankDisplay : Display := Vector.replicate 32 (Vector.replicate 64 false)

/-! ### Taking a halt, the machine's only exception (R170, R179) -/

/-- `raise Halt(kind)`: the latch takes the record (kind, `PC` at the report, fetched word); nothing else changes
(R10, R94, R179, D11, D12, D14). It is called on the state before the instruction's writes, so they are discarded.
Log entry 14. -/
def raiseHalt (kind : HaltKind) (opcode : Option Word) (s : State) : Result :=
  .next (setHalt s (some ⟨kind, s.pc, opcode⟩))

/-- R170's numeric codes for a realisation that needs them (D13). -/
def haltCode : HaltKind → Nat
  | .stackOverflow => 1
  | .stackUnderflow => 2
  | .invalidOpcode => 3
  | .programCounterOutOfRange => 4
  | .memoryOutOfRange => 5

/-- The `result` port after a step that led to `t` (R90, R95): none is `Continue`, a record is `Halt(kind, pc, opcode)`. -/
def stepResult (t : State) : Option HaltRecord := t.halt

/-! ### The parts of a step (R91) -/

/-- The inputs the host gives this step: `keys` and `rnd` are free values (R31, R32, R98; log entries 1 and 2). -/
def hostInput (s : State) : State :=
  { s with keys := Config.hostKeys s.tick, rnd := Config.hostRnd s.tick, tick := s.tick + 1 }

/-- Step 1's test: `PC >= 0xFFF` (R174, D1, conflict C2; log entry 9). -/
def pcOutOfRange (s : State) : Bool := decide (Config.pcLimit ≤ s.pc.toNat)

/-- Step 1's halt: no fetch, PC unchanged, no opcode (R91, R174). -/
def haltPcOutOfRange (s : State) : Result := raiseHalt .programCounterOutOfRange none s

/-- Step 2: the word at `PC` (R76, R91). -/
def fetchWord (s : State) : Word := fetch16 s.mem s.pc.toNat

/-- Step 4's halt on a word that is no instruction, after the pre-advance (R91, R173). -/
def haltInvalidOpcode (op : Word) (s : State) : Result := raiseHalt .invalidOpcode (some op) s

/-- `op` stored where the next step fetches: high byte at `PC`, low byte at `PC + 1`. Where `PC` is out of range no
step fetches, and nothing is stored. -/
def placeWord (s : State) (op : Word) : State :=
  if pcOutOfRange s then s
  else setMem s (memWriteList s.mem s.pc.toNat [highByte op, lowByte op])

end Sys2Proof.Machine
end

