-- ==== Sys2Proof/Machine/Operands.lean ====
section
/-! DEFINITION. The operand forms: zero extension (spec/00_scope.md R9), effective addresses and their range check
(spec/43_index_memory.md R146, spec/20_memory.md R58), the key test (spec/41_control_flow.md R108), decimal digits
(R143), sprite bits (spec/44_display.md R154). -/

namespace Sys2Proof.Machine

/-- `zext_16` of an address immediate (R9, R79). -/
def zextAddr (nnn : Addr12) : Word := nnn.zeroExtend 16

/-- `zext_16` of a byte (R9). -/
def zextByte (b : Byte) : Word := b.zeroExtend 16

/-- The address `I + k`, a natural number, not wrapped at 12 or 16 bits (R58, R146). -/
def effAddr (s : State) (k : Nat) : Nat := s.index.toNat + k

/-- The highest address an instruction names, `I + k`, is inside memory (R58, D3; log entry 11). -/
def inMemory (s : State) (k : Nat) : Bool := decide (effAddr s k ≤ Config.lastAddr)

/-- `Dxyn` names `I` to `I + n - 1`, and nothing at all when `n` is 0 (R58, R151, D4; log entry 11). -/
def spriteInMemory (s : State) (n : Nat) : Bool := decide (n = 0) || inMemory s (n - 1)

/-- `pressed`: a key number above 0xF names no key and is not pressed (R108, R109, D6; log entry 13). -/
def keyPressed (s : State) (x : Reg) : Bool :=
  decide ((reg s x).toNat ≤ 0xF) && s.keys.getLsbD (reg s x).toNat

/-- Hundreds, tens and units of a byte, one digit a byte (R143). -/
def bcdDigits (b : Byte) : List Byte :=
  [BitVec.ofNat 8 (b.toNat / 100), BitVec.ofNat 8 (b.toNat / 10 % 10), BitVec.ofNat 8 (b.toNat % 10)]

/-- `V0`..`Vx`, the bytes `Fx55` stores (R144). -/
def regsUpTo (s : State) (x : Reg) : List Byte := s.v.toList.take (x.val + 1)

/-- The register file after `V0`..`Vx` are loaded from `I`..`I + x` (R145). -/
def loadedRegs (s : State) (x : Reg) : Vector Byte 16 :=
  Vector.ofFn fun j : Fin 16 => if j ≤ x then readByte s (effAddr s j.val) else reg s j

/-- Column `c` of a sprite row is bit `7 - c` of its byte (R154, conflict C7). -/
def spriteBit (b : Byte) (c : Nat) : Bool := b.getLsbD (7 - c)

end Sys2Proof.Machine
end

