-- ==== Sys2Proof/Machine/Flags.lean ====
section
/-! DEFINITION. The flag values of spec/10_state.md R21 and the order of the two writes (R22). -/

namespace Sys2Proof.Machine

/-- A flag is stored as 0 or 1 (R21). -/
def flagByte (c : Bool) : Byte := if c then 1#8 else 0#8

/-- `8xy4`: the carry out of bit 7 (R126). -/
def carryFlag (a b : Byte) : Byte := flagByte (decide (a.toNat + b.toNat > 255))

/-- `8xy5` and `8xy7`: `a > b`, unsigned and strict, the same predicate in both (R127, R129, D25, conflict C9; log
entry 17). -/
def greaterFlag (a b : Byte) : Byte := flagByte (decide (a.toNat > b.toNat))

/-- `8xy6`: bit 0 of the old value (R128). -/
def lsbFlag (a : Byte) : Byte := flagByte (a.getLsbD 0)

/-- `8xyE`: bit 7 of the old value, as 0 or 1 (R130). -/
def msbFlag (a : Byte) : Byte := flagByte (a.getLsbD 7)

/-- The data result to `V[x]`, then the flag to `VF`: with `x` = 15 the flag wins (R22, conflict C11). -/
def setRegFlag (s : State) (x : Reg) (result flag : Byte) : State := setReg (setReg s x result) vf flag

end Sys2Proof.Machine
end

