-- ==== Sys2Proof/Machine/Alu.lean ====
section
/-! DEFINITION. ALU and register file (spec/42_alu.md). Both operands are read before any write; where a flag is
written, it is written last (spec/10_state.md R22). -/

namespace Sys2Proof.Machine

/-- `6xkk` (R120). -/
def execLdImm (x : Reg) (kk : Byte) (s : State) : Result := .next (setReg s x kk)

/-- `7xkk` (R121): wraps, no flag. -/
def execAddImm (x : Reg) (kk : Byte) (s : State) : Result := .next (setReg s x (reg s x + kk))

/-- `8xy0` (R122). -/
def execLdReg (x y : Reg) (s : State) : Result := .next (setReg s x (reg s y))

/-- `8xy1` (R123): `VF` is not cleared. -/
def execOrReg (x y : Reg) (s : State) : Result := .next (setReg s x (reg s x ||| reg s y))

/-- `8xy2` (R124): `VF` is not cleared. -/
def execAndReg (x y : Reg) (s : State) : Result := .next (setReg s x (reg s x &&& reg s y))

/-- `8xy3` (R125): `VF` is not cleared. -/
def execXorReg (x y : Reg) (s : State) : Result := .next (setReg s x (reg s x ^^^ reg s y))

/-- `8xy4` (R126). -/
def execAddReg (x y : Reg) (s : State) : Result :=
  .next (setRegFlag s x (reg s x + reg s y) (carryFlag (reg s x) (reg s y)))

/-- `8xy5` (R127). -/
def execSubReg (x y : Reg) (s : State) : Result :=
  .next (setRegFlag s x (reg s x - reg s y) (greaterFlag (reg s x) (reg s y)))

/-- `8xy6` (R128): `Vy` has no effect (D31). -/
def execShr (x _y : Reg) (s : State) : Result :=
  .next (setRegFlag s x (reg s x >>> 1) (lsbFlag (reg s x)))

/-- `8xy7` (R129): the flag is the same predicate as that of `8xy5`. -/
def execSubnReg (x y : Reg) (s : State) : Result :=
  .next (setRegFlag s x (reg s y - reg s x) (greaterFlag (reg s x) (reg s y)))

/-- `8xyE` (R130): `Vy` has no effect (D31). -/
def execShl (x _y : Reg) (s : State) : Result :=
  .next (setRegFlag s x (reg s x <<< 1) (msbFlag (reg s x)))

/-- `Cxkk` (R131): `rnd` is the step's free input. -/
def execRnd (x : Reg) (kk : Byte) (s : State) : Result := .next (setReg s x (s.rnd &&& kk))

end Sys2Proof.Machine
end

