-- ==== Sys2Proof/Machine/ControlFlow.lean ====
section
/-! DEFINITION. Control transfer (spec/41_control_flow.md): return, call, jumps, skips. `PC` already holds the
advanced value when a meaning starts (spec/40_engine_step.md R92). -/

namespace Sys2Proof.Machine

/-- `00EE` (R100). -/
def execRet (s : State) : Result :=
  match s.stack.getLast? with
  | none => raiseHalt .stackUnderflow (some (encode .ret)) s
  | some a => .next (setPc (setStack s s.stack.dropLast) a)

/-- `1nnn` (R101). -/
def execJp (nnn : Addr12) (s : State) : Result := .next (setPc s (zextAddr nnn))

/-- `2nnn` (R102): the pushed value is the advanced PC. -/
def execCall (nnn : Addr12) (s : State) : Result :=
  if stackFull s then raiseHalt .stackOverflow (some (encode (.call nnn))) s
  else .next (setPc (push s s.pc) (zextAddr nnn))

/-- `Bnnn` (R107): always `V0`, the sum not masked. -/
def execJpV0 (nnn : Addr12) (s : State) : Result := .next (setPc s (zextAddr nnn + zextByte (reg s 0)))

/-- `3xkk` (R103). -/
def execSeImm (x : Reg) (kk : Byte) (s : State) : Result := .next (skipIf (reg s x == kk) s)

/-- `4xkk` (R104). -/
def execSneImm (x : Reg) (kk : Byte) (s : State) : Result := .next (skipIf (reg s x != kk) s)

/-- `5xy0` (R105). -/
def execSeReg (x y : Reg) (s : State) : Result := .next (skipIf (reg s x == reg s y) s)

/-- `9xy0` (R106). -/
def execSneReg (x y : Reg) (s : State) : Result := .next (skipIf (reg s x != reg s y) s)

/-- `Ex9E` (R108). -/
def execSkp (x : Reg) (s : State) : Result := .next (skipIf (keyPressed s x) s)

/-- `ExA1` (R109). -/
def execSknp (x : Reg) (s : State) : Result := .next (skipIf (!keyPressed s x) s)

end Sys2Proof.Machine
end

