-- ==== Sys2Proof/Machine/Display.lean ====
section
/-! DEFINITION. The display: clear, and the sprite XOR compositor with its collision detector
(spec/44_display.md). -/

namespace Sys2Proof.Machine

/-- `00E0` (R150): `VF` is not written. -/
def execCls (s : State) : Result := .next (setDisp s blankDisplay)

/-- One pixel of a sprite over a display and the collision seen so far. A pixel off the right or bottom edge is
dropped: not read, not written, no collision (R151, R153). -/
def plot (px py : Nat) (on : Bool) (c : Display × Bool) : Display × Bool :=
  if px < Config.dispW ∧ py < Config.dispH then
    (setPixelOf c.1 px py (pixelOf c.1 px py ^^ on), c.2 || (pixelOf c.1 px py && on))
  else c

/-- One sprite row: the columns 0 to 7 of byte `b` (R151). `ox + col` is a natural number, not wrapped (D16, log
entry 15). -/
def drawRow (ox py : Nat) (b : Byte) (c : Display × Bool) : Display × Bool :=
  (List.range Config.spriteW).foldl (fun c col => plot (ox + col) py (spriteBit b col) c) c

/-- The rows 0 to `n - 1`, row `r` from the byte at `base + r` (R151). -/
def drawSprite (m : Memory) (base ox oy n : Nat) (c : Display × Bool) : Display × Bool :=
  (List.range n).foldl (fun c r => drawRow ox (oy + r) (memRead m (base + r)) c) c

/-- What `Dxyn` leaves on the display, and whether any lit pixel was covered: the origin is the old `Vx`, `Vy`,
not reduced modulo anything (R152, D15; log entry 15). -/
def drawnSprite (s : State) (x y : Reg) (n : Nat) : Display × Bool :=
  drawSprite s.mem (effAddr s 0) (reg s x).toNat (reg s y).toNat n (s.disp, false)

/-- `Dxyn` (R151): `VF` starts at 0 and is 1 after any collision, also when `n` = 0 or all is off-screen. -/
def execDrw (x y : Reg) (n : Nat) (s : State) : Result :=
  if spriteInMemory s n then
    .next (setReg (setDisp s (drawnSprite s x y n).1) vf (flagByte (drawnSprite s x y n).2))
  else raiseHalt .memoryOutOfRange (some (encode (.drw x y n))) s

end Sys2Proof.Machine
end

