-- ==== Sys2Proof/Machine/IndexMemory.lean ====
section
/-! DEFINITION. The index register and the memory transfers (spec/43_index_memory.md). No transfer changes `I`
(D26); a transfer out of range halts before any access (R146). -/

namespace Sys2Proof.Machine

/-- `Annn` (R140). -/
def execLdI (nnn : Addr12) (s : State) : Result := .next (setIndex s (zextAddr nnn))

/-- `Fx1E` (R141): wraps modulo 65536 (D5, log entry 12), `VF` is not written. -/
def execAddI (x : Reg) (s : State) : Result := .next (setIndex s (s.index + zextByte (reg s x)))

/-- `Fx29` (R142): the low nibble of `Vx` only; no memory is read. -/
def execLdF (x : Reg) (s : State) : Result := .next (setIndex s (5#16 * zextByte (reg s x &&& 0x0F#8)))

/-- `Fx33` (R143). -/
def execLdB (x : Reg) (s : State) : Result :=
  if inMemory s 2 then .next (setMem s (memWriteList s.mem (effAddr s 0) (bcdDigits (reg s x))))
  else raiseHalt .memoryOutOfRange (some (encode (.ldB x))) s

/-- `Fx55` (R144). -/
def execStoreRegs (x : Reg) (s : State) : Result :=
  if inMemory s x.val then .next (setMem s (memWriteList s.mem (effAddr s 0) (regsUpTo s x)))
  else raiseHalt .memoryOutOfRange (some (encode (.storeRegs x))) s

/-- `Fx65` (R145). -/
def execLoadRegs (x : Reg) (s : State) : Result :=
  if inMemory s x.val then .next (setRegs s (loadedRegs s x))
  else raiseHalt .memoryOutOfRange (some (encode (.loadRegs x))) s

end Sys2Proof.Machine
end

