-- ==== Sys2Proof/Machine/Placeholders.lean ====
section
/-! DEFINITION. The timer, sound and key-wait placeholders (spec/45_timer_key_placeholders.md R164): there is no
timer, and nothing waits. -/

namespace Sys2Proof.Machine

/-- `Fx07` (R160): always reads zero. -/
def execLdVxDT (x : Reg) (s : State) : Result := .next (setReg s x 0#8)

/-- `Fx0A` (R161): nothing; the key latch is not read (D28). -/
def execLdVxK (_x : Reg) (s : State) : Result := .next s

/-- `Fx15` (R162): nothing. -/
def execLdDTVx (_x : Reg) (s : State) : Result := .next s

/-- `Fx18` (R163): nothing. -/
def execLdSTVx (_x : Reg) (s : State) : Result := .next s

end Sys2Proof.Machine
end

