-- ==== Sys2Proof/Machine/Step.lean ====
section
/-! DEFINITION. One step (spec/40_engine_step.md R91), and the placing of a word where the next step fetches it.
The parts called here stand in Machine/Ops.lean. -/

namespace Sys2Proof.Machine

/-- R91 on a machine that has not halted and has been given its inputs: the range test, the fetch, the pre-advance,
the decoding, then the instruction. This is the spec's `step : State x keys x rnd -> State x result` (R90), with
the inputs in the state. -/
def engineStep (s : State) : Host.Outcome State Fault Refusal :=
  if pcOutOfRange s then haltPcOutOfRange s
  else
    match decode (fetchWord s) with
    | .error _ => haltInvalidOpcode (fetchWord s) (advance s)
    | .ok i => exec i (advance s)

/-- One step: none from a halted state (R96); else the host presents the inputs (R98) and the engine steps. -/
def step (s : State) : Host.Outcome State Fault Refusal :=
  match s.halt with
  | some _ => .fault .halted
  | none => engineStep (hostInput s)

/-- `s` with the instruction of a table word stored where `step` fetches next; nothing else changes. It stands for
the load of a program by the host (R53, R200; log entry 5). -/
def State.withFetchWord (s : State) (nbits w : Nat) : State := placeWord s (tableWord nbits w)

end Sys2Proof.Machine
end

