-- ==== Sys2Proof/Machine/Reset.lean ====
section
/-! DEFINITION. Reset with its parameters (spec/70_reset_and_hazards.md R200, R202). `State.reset` is the reset
with the default FONT and INIT_RAM and an empty program. -/

namespace Sys2Proof.Machine

/-- Memory built from `INIT_RAM`, then the font at 0x000, then the program at 0x200 (R200, R53). -/
def resetMemory (font : Vector Byte Config.fontSize) (initRam : Nat → Byte) (program : List Byte) : Memory :=
  memWriteList
    (memWriteList (memWriteList [] 0 ((List.range Config.memSize).map initRam)) 0 font.toList)
    Config.progBase program

/-- The `reset` event: every piece of state at R40's value for these parameters. No state is defined for an image
of more than 0xDFF bytes, the host's `LoadError` (R176, R202, U13; log entry 21). -/
def State.resetWith (font : Vector Byte Config.fontSize) (initRam : Nat → Byte) (program : List Byte) :
    Option State :=
  if program.length ≤ Config.progMax then
    some (setMem State.reset (resetMemory font initRam program))
  else none

/-- The default `FONT` as the parameter of reset (R52, D10). -/
def defaultFont : Vector Byte Config.fontSize := Vector.ofFn fun k => unlistedByte k.val

end Sys2Proof.Machine
end

