-- ==== Sys2Proof/Safety.lean ====
section
/-! DEFINITION. What claims are stated in: running and halted, what an instruction may write (its frame), which
pixels a sprite lights, and the invariant of the machine. Written from the spec, not from the meanings. -/

namespace Sys2Proof.Machine

/-- No halt is recorded; a run is safe as long as this holds (spec/60_exceptions.md R182). -/
abbrev Running (s : State) : Prop := s.halt = none

/-- The parts of the state an instruction may write: registers by number, the other registers and stores as a
whole, and `memLen` bytes of memory from `memFrom`. -/
structure Writes where
  regs : List Reg := []
  index : Bool := false
  pc : Bool := false
  stack : Bool := false
  disp : Bool := false
  halt : Bool := false
  memFrom : Nat := 0
  memLen : Nat := 0

/-- Everything outside `w` is as before: registers, `I`, `PC`, stack, every pixel, every byte of memory, the halt
latch, and always the inputs. -/
def Frame (w : Writes) (s t : State) : Prop :=
  (∀ r : Reg, r ∉ w.regs → reg t r = reg s r) ∧
  (w.index = false → t.index = s.index) ∧
  (w.pc = false → t.pc = s.pc) ∧
  (w.stack = false → t.stack = s.stack) ∧
  (w.disp = false → ∀ px py, pixel t px py = pixel s px py) ∧
  (w.halt = false → t.halt = s.halt) ∧
  (∀ a, a < w.memFrom ∨ w.memFrom + w.memLen ≤ a → readByte t a = readByte s a) ∧
  (t.keys = s.keys ∧ t.rnd = s.rnd ∧ t.tick = s.tick)

/-- What each instruction may write when it completes, `PC` counted only where it departs from the pre-advance
(spec/10_state.md R21, R23, R25, R29, R30, spec/20_memory.md R70). The address of a store is the effective address
the meaning uses. -/
def writesOf (s : State) : Instr → Writes
  | .cls => { disp := true }
  | .ret => { stack := true, pc := true }
  | .jp _ => { pc := true }
  | .call _ => { stack := true, pc := true }
  | .seImm _ _ => { pc := true }
  | .sneImm _ _ => { pc := true }
  | .seReg _ _ => { pc := true }
  | .ldImm x _ => { regs := [x] }
  | .addImm x _ => { regs := [x] }
  | .ldReg x _ => { regs := [x] }
  | .orReg x _ => { regs := [x] }
  | .andReg x _ => { regs := [x] }
  | .xorReg x _ => { regs := [x] }
  | .addReg x _ => { regs := [x, vf] }
  | .subReg x _ => { regs := [x, vf] }
  | .shr x _ => { regs := [x, vf] }
  | .subnReg x _ => { regs := [x, vf] }
  | .shl x _ => { regs := [x, vf] }
  | .sneReg _ _ => { pc := true }
  | .ldI _ => { index := true }
  | .jpV0 _ => { pc := true }
  | .rnd x _ => { regs := [x] }
  | .drw _ _ _ => { regs := [vf], disp := true }
  | .skp _ => { pc := true }
  | .sknp _ => { pc := true }
  | .ldVxDT x => { regs := [x] }
  | .ldVxK _ => {}
  | .ldDTVx _ => {}
  | .ldSTVx _ => {}
  | .addI _ => { index := true }
  | .ldF _ => { index := true }
  | .ldB _ => { memFrom := effAddr s 0, memLen := 3 }
  | .storeRegs x => { memFrom := effAddr s 0, memLen := x.val + 1 }
  | .loadRegs x => { regs := (List.finRange 16).filter (fun j => j ≤ x) }

/-- The six instructions that write `VF` as a flag (R21). -/
def writesFlag : Instr → Bool
  | .addReg _ _ | .subReg _ _ | .shr _ _ | .subnReg _ _ | .shl _ _ | .drw _ _ _ => true
  | .cls | .ret | .jp _ | .call _ | .seImm _ _ | .sneImm _ _ | .seReg _ _ | .ldImm _ _ | .addImm _ _
  | .ldReg _ _ | .orReg _ _ | .andReg _ _ | .xorReg _ _ | .sneReg _ _ | .ldI _ | .jpV0 _ | .rnd _ _ | .skp _
  | .sknp _ | .ldVxDT _ | .ldVxK _ | .ldDTVx _ | .ldSTVx _ | .addI _ | .ldF _ | .ldB _ | .storeRegs _
  | .loadRegs _ => false

/-- The sprite of `n` rows at `I` drawn with its left top corner in column `ox`, row `oy` has a 1 bit on the pixel
in column `px` of row `py`: bit `7 - (px - ox)` of the byte at `I + (py - oy)` (spec/44_display.md R151, R154). -/
def spriteCovers (s : State) (ox oy n px py : Nat) : Bool :=
  decide (ox ≤ px ∧ px < ox + 8 ∧ oy ≤ py ∧ py < oy + n) &&
    (readByte s (effAddr s (py - oy))).getLsbD (7 - (px - ox))

/-- A state with other inputs of the step (R97). -/
def withInputs (s : State) (keys : Word) (rnd : Byte) : State := { s with keys := keys, rnd := rnd }

/-- The invariant of the machine: memory in its canonical form (the model's), at most 16 stack entries (R29), each
a value `2nnn` can have pushed, 2 to 0x1000 (R29), `PC` at most 0x10FE (R27), and a halt record that names the `PC`
the machine stopped at (R179). -/
def StateInv (s : State) : Prop :=
  Memory.wf s.mem ∧
  s.stack.length ≤ 16 ∧
  (∀ a ∈ s.stack, 2 ≤ a.toNat ∧ a.toNat ≤ 0x1000) ∧
  s.pc.toNat ≤ 0x10FE ∧
  (∀ h, s.halt = some h → h.pc = s.pc)

/-- How a step that starts with `PC = pc0` and executes `i` without halting leaves `PC` (R25). The state `s` is the
one the step started from. -/
def pcAfter (s t : State) : Instr → Prop
  | .jp nnn => t.pc.toNat = nnn.toNat
  | .call nnn => t.pc.toNat = nnn.toNat ∧ ∃ a : Word, a.toNat = s.pc.toNat + 2 ∧ t.stack = s.stack ++ [a]
  | .ret => s.stack = t.stack ++ [t.pc]
  | .jpV0 nnn => t.pc.toNat = nnn.toNat + (reg s 0).toNat
  | .seImm x kk => t.pc.toNat = if reg s x = kk then s.pc.toNat + 4 else s.pc.toNat + 2
  | .sneImm x kk => t.pc.toNat = if reg s x ≠ kk then s.pc.toNat + 4 else s.pc.toNat + 2
  | .seReg x y => t.pc.toNat = if reg s x = reg s y then s.pc.toNat + 4 else s.pc.toNat + 2
  | .sneReg x y => t.pc.toNat = if reg s x ≠ reg s y then s.pc.toNat + 4 else s.pc.toNat + 2
  | .skp x => t.pc.toNat = if (reg s x).toNat ≤ 15 ∧ t.keys.getLsbD (reg s x).toNat = true
      then s.pc.toNat + 4 else s.pc.toNat + 2
  | .sknp x => t.pc.toNat = if (reg s x).toNat ≤ 15 ∧ t.keys.getLsbD (reg s x).toNat = true
      then s.pc.toNat + 2 else s.pc.toNat + 4
  | .cls | .ldImm _ _ | .addImm _ _ | .ldReg _ _ | .orReg _ _ | .andReg _ _ | .xorReg _ _ | .addReg _ _
  | .subReg _ _ | .shr _ _ | .subnReg _ _ | .shl _ _ | .ldI _ | .rnd _ _ | .drw _ _ _ | .ldVxDT _ | .ldVxK _
  | .ldDTVx _ | .ldSTVx _ | .addI _ | .ldF _ | .ldB _ | .storeRegs _ | .loadRegs _ => t.pc.toNat = s.pc.toNat + 2

/-- The instructions that name memory, with the highest offset `k` of `I + k` they name (R58, R70); none for `Dxyn`
with no rows and for every other instruction. -/
def highestOffset : Instr → Option Nat
  | .drw _ _ n => if n = 0 then none else some (n - 1)
  | .ldB _ => some 2
  | .storeRegs x => some x.val
  | .loadRegs x => some x.val
  | .cls | .ret | .jp _ | .call _ | .seImm _ _ | .sneImm _ _ | .seReg _ _ | .ldImm _ _ | .addImm _ _
  | .ldReg _ _ | .orReg _ _ | .andReg _ _ | .xorReg _ _ | .addReg _ _ | .subReg _ _ | .shr _ _ | .subnReg _ _
  | .shl _ _ | .sneReg _ _ | .ldI _ | .jpV0 _ | .rnd _ _ | .skp _ | .sknp _ | .ldVxDT _ | .ldVxK _ | .ldDTVx _
  | .ldSTVx _ | .addI _ | .ldF _ => none

end Sys2Proof.Machine
end

