-- ==== Sys2Proof/Certificates/Slice0/Obligations.lean ====
section
/-! DEFINITION. The statements for the provers, from the numbered rules of spec/. Meanings are stated over `exec`,
whose state already holds the advanced `PC` (spec/40_engine_step.md R92) and the inputs of the step. -/

open Sys2Proof Sys2Proof.Machine

/-! ### Encoding -/

/-- R77, R78, R80, R81: the word of a well-formed instruction decodes to it, at every value of every operand. -/
def Obligations.DecodeOfEncode : Prop :=
  ∀ i : Instr, i.WellFormed → decode (encode i) = .ok i

/-- R80, R81: every legal word has one meaning; an instruction that was decoded is well-formed and encodes to the
word it came from. -/
def Obligations.EncodeOfDecode : Prop :=
  ∀ (w : Word) (i : Instr), decode w = .ok i → i.WellFormed ∧ encode i = w

/-- R81, R82: a word decodes to an instruction exactly when it selects a row of the opcode map, and then to an
instruction of that row. -/
def Obligations.DecodeFollowsOpcodeMap : Prop :=
  (∀ (w : Word) (i : Instr), decode w = .ok i → i.row ∈ opcodeTable ∧ i.row.selects w) ∧
  (∀ (w : Word) (row : OpcodeRow), row ∈ opcodeTable → row.selects w → ∃ i, decode w = .ok i ∧ i.row = row)

/-- R87: the 34 rows are pairwise disjoint: no word matches two rows. -/
def Obligations.OpcodeRowsDisjoint : Prop :=
  opcodeTable.length = 34 ∧ opcodeTable.Nodup ∧
  ∀ (w : Word) (row row' : OpcodeRow), row ∈ opcodeTable → row' ∈ opcodeTable →
    row.selects w → row'.selects w → row = row'

/-- R80, R81, R84: some words decode to what they stand for, and some are illegal. -/
def Obligations.DecodeKnownWords : Prop :=
  decode 0x00E0#16 = .ok .cls ∧ decode 0x2ABC#16 = .ok (.call 0xABC#12) ∧ decode 0x8A36#16 = .ok (.shr 10 3) ∧
  decode 0xD12F#16 = .ok (.drw 1 2 15) ∧ decode 0xEFA1#16 = .ok (.sknp 15) ∧ decode 0xF265#16 = .ok (.loadRegs 2) ∧
  decode 0x0000#16 = .error .type0 ∧ decode 0x5001#16 = .error .type5 ∧ decode 0xF0FF#16 = .error .typeF

/-- R76: the fetched word is `Mem[pc] * 256 + Mem[pc + 1]`; the lower address supplies `op[15:8]`. -/
def Obligations.FetchIsBigEndian : Prop :=
  ∀ s : State,
    (fetchWord s).toNat = (readByte s s.pc.toNat).toNat * 256 + (readByte s (s.pc.toNat + 1)).toNat ∧
    highByte (fetchWord s) = readByte s s.pc.toNat ∧ lowByte (fetchWord s) = readByte s (s.pc.toNat + 1)

/-! ### The step -/

/-- R91, R92: a running machine whose `PC` is in range, even or odd, runs the decoded instruction on the state with
the inputs sampled and `PC` advanced by 2; nothing else is added. The two inputs are free values of Config (log
entries 1 and 2). -/
def Obligations.StepRunsDecodedInstruction : Prop :=
  ∀ (s : State) (i : Instr), Running s → s.pc.toNat < 0xFFF → decode (fetchWord s) = .ok i →
    ∃ u : State, step s = exec i u ∧ u.pc.toNat = s.pc.toNat + 2 ∧ u.v = s.v ∧ u.index = s.index ∧
      u.stack = s.stack ∧ u.mem = s.mem ∧ u.disp = s.disp ∧ u.halt = s.halt ∧
      u.keys = Config.hostKeys s.tick ∧ u.rnd = Config.hostRnd s.tick ∧ u.tick = s.tick + 1

/-- R59, R91, R174: a step that starts with `PC >= 0xFFF` fetches nothing and changes only the halt latch.
When the test is made is the spec's decision D1 (log entry 9). -/
def Obligations.PcOutOfRangeHalts : Prop :=
  ∀ s : State, Running s → 0xFFF ≤ s.pc.toNat →
    ∃ t, step s = .next t ∧ t.halt = some ⟨.programCounterOutOfRange, s.pc, none⟩ ∧
      Frame { halt := true } (hostInput s) t

/-- R82, R91, R173: a word that matches no row of the opcode map halts with `InvalidOpcode`, after the pre-advance,
and changes nothing else. The record's content is the spec's decision D12 (log entry 14). -/
def Obligations.IllegalWordHalts : Prop :=
  ∀ s : State, Running s → s.pc.toNat < 0xFFF → (∀ row ∈ opcodeTable, ¬ row.selects (fetchWord s)) →
    ∃ t, step s = .next t ∧ t.halt = some ⟨.invalidOpcode, t.pc, some (fetchWord s)⟩ ∧
      t.pc.toNat = s.pc.toNat + 2 ∧ Frame { halt := true, pc := true } (hostInput s) t

/-- R96, R182: a halted machine has no step (the model's fault `halted`), and a running machine always has one.
The stuck halted state is the spec's decision D11, its form as a fault the model's (log entry 7). -/
def Obligations.StepStopsOnlyWhenHalted : Prop :=
  ∀ s : State, (¬ Running s → step s = .fault .halted) ∧ (Running s → ∃ t, step s = .next t)

/-- R179: a step that halts leaves the record (kind, `PC` at the report, fetched word or none), `PC` at the recorded
value, and changes nothing else. The spec's decisions D12 and D14 (log entry 14). -/
def Obligations.HaltsArePrecise : Prop :=
  ∀ (s t : State) (h : HaltRecord), step s = .next t → t.halt = some h →
    h.pc = t.pc ∧ Frame { halt := true, pc := true } (hostInput s) t ∧
    (h.kind = .programCounterOutOfRange → h.opcode = none ∧ t.pc = s.pc) ∧
    (h.kind ≠ .programCounterOutOfRange → h.opcode = some (fetchWord s) ∧ t.pc.toNat = s.pc.toNat + 2)

/-- R170, R178: which step of a running machine halts, and with which kind; no other condition halts.
The kind `MemoryOutOfRange` and its test are the spec's decision D3 (log entry 11), the time of the `PC` test its
decision D1 (log entry 9). -/
def Obligations.HaltConditions : Prop :=
  ∀ (s t : State), step s = .next t →
    ((∃ h, t.halt = some h ∧ h.kind = .programCounterOutOfRange) ↔ 0xFFF ≤ s.pc.toNat) ∧
    ((∃ h, t.halt = some h ∧ h.kind = .invalidOpcode) ↔
      s.pc.toNat < 0xFFF ∧ ∃ e, decode (fetchWord s) = .error e) ∧
    ((∃ h, t.halt = some h ∧ h.kind = .stackOverflow) ↔
      s.pc.toNat < 0xFFF ∧ (∃ nnn, decode (fetchWord s) = .ok (.call nnn)) ∧ 16 ≤ s.stack.length) ∧
    ((∃ h, t.halt = some h ∧ h.kind = .stackUnderflow) ↔
      s.pc.toNat < 0xFFF ∧ decode (fetchWord s) = .ok .ret ∧ s.stack = []) ∧
    ((∃ h, t.halt = some h ∧ h.kind = .memoryOutOfRange) ↔
      s.pc.toNat < 0xFFF ∧ ∃ i k, decode (fetchWord s) = .ok i ∧ highestOffset i = some k ∧
        0xFFF < s.index.toNat + k)

/-- R25: where `PC` stands after a step, for every instruction and for every halt. The halting cases rest on the
spec's decisions D1 and D14 (log entries 9 and 14), the key skips on D6 (log entry 13). -/
def Obligations.PcAfterEveryStep : Prop :=
  ∀ (s t : State), step s = .next t →
    (∀ i, s.pc.toNat < 0xFFF → decode (fetchWord s) = .ok i → Running t → pcAfter s t i) ∧
    (∀ h, t.halt = some h → h.kind ≠ .programCounterOutOfRange → t.pc.toNat = s.pc.toNat + 2) ∧
    (∀ h, t.halt = some h → h.kind = .programCounterOutOfRange → t.pc = s.pc)

/-- R27, R29, R179 and the model's canonical memory: every step keeps the invariant (the memory's form is
the model's own, log entry 8). -/
def Obligations.StepKeepsInvariant : Prop :=
  ∀ s t : State, StateInv s → step s = .next t → StateInv t

/-- The invariant holds at reset (R40). -/
def Obligations.ResetMeetsInvariant : Prop := StateInv State.reset

/-! ### Rules over all instructions -/

/-- R21, R23, R29, R30, R70, R94: every instruction writes only what the spec lets it write; one that may halt either
does that or records the halt and writes nothing else. -/
def Obligations.EveryInstructionKeepsFrame : Prop :=
  ∀ (i : Instr) (s t : State), exec i s = .next t →
    Frame (writesOf s i) s t ∨
      ((i = .ret ∨ (∃ nnn, i = .call nnn) ∨ highestOffset i ≠ none) ∧
        Frame { halt := true } s t ∧ ¬ Running t)

/-- R21: only the six flag writers write `VF` as a flag, and they leave 0 or 1 there; every other instruction leaves
`VF` unless its data destination is register 15. -/
def Obligations.OnlyFlagWritersTouchVf : Prop :=
  ∀ (i : Instr) (s t : State), exec i s = .next t →
    (writesFlag i = false → vf ∉ (writesOf s i).regs → reg t vf = reg s vf) ∧
    (writesFlag i = true → Running t → reg t vf = 0#8 ∨ reg t vf = 1#8)

/-- R97: `keys` is read only by `Ex9E` and `ExA1`, `rnd` only by `Cxkk`: other inputs lead the same state to the same
next state. -/
def Obligations.InputsReadOnlyWhereNamed : Prop :=
  ∀ (i : Instr) (s t : State) (keys : Word) (rnd : Byte), exec i s = .next t →
    ((∀ x, i ≠ .skp x ∧ i ≠ .sknp x) → exec i (withInputs s keys s.rnd) = .next (withInputs t keys t.rnd)) ∧
    ((∀ x kk, i ≠ .rnd x kk) → exec i (withInputs s s.keys rnd) = .next (withInputs t t.keys rnd))

/-! ### Control flow -/

/-- R100: `00EE` pops the newest entry into `PC`; an empty stack halts. The record's content is the spec's decision D12
(log entry 14). -/
def Obligations.ReturnPopsOrUnderflows : Prop :=
  decode 0x00EE#16 = .ok .ret ∧ ∀ s : State,
    (∀ l a, s.stack = l ++ [a] → ∃ t, exec .ret s = .next t ∧ t.pc = a ∧ t.stack = l ∧
      Frame { pc := true, stack := true } s t) ∧
    (s.stack = [] → ∃ t, exec .ret s = .next t ∧ t.halt = some ⟨.stackUnderflow, s.pc, some 0x00EE#16⟩ ∧
      Frame { halt := true } s t)

/-- R102: `2nnn` pushes the advanced `PC` and jumps; at depth 16 it halts and pushes nothing. The record's
content is the spec's decision D12 (log entry 14). -/
def Obligations.CallPushesOrOverflows : Prop :=
  ∀ (nnn : Addr12) (s : State), decode (0x2#4 ++ nnn) = .ok (.call nnn) ∧
    (s.stack.length < 16 → ∃ t, exec (.call nnn) s = .next t ∧ t.stack = s.stack ++ [s.pc] ∧
      t.pc.toNat = nnn.toNat ∧ Frame { pc := true, stack := true } s t) ∧
    (s.stack.length = 16 → ∃ t, exec (.call nnn) s = .next t ∧
      t.halt = some ⟨.stackOverflow, s.pc, some (0x2#4 ++ nnn)⟩ ∧ Frame { halt := true } s t)

/-- R92, R102, R100: a call and then a return, from wherever the return stands, come back to the instruction after the
call with the stack as before. -/
def Obligations.CallThenReturn : Prop :=
  ∀ (nnn : Addr12) (s : State) (p : Word), s.stack.length < 16 →
    ∃ t u, exec (.call nnn) s = .next t ∧ exec .ret (setPc t p) = .next u ∧ u.pc = s.pc ∧ u.stack = s.stack ∧
      Frame {} s u

/-- R101, R107: `1nnn` and `Bnnn` assign their target; the sum of `Bnnn` takes `V0` and is not masked. -/
def Obligations.JumpsAssignTheirTarget : Prop :=
  ∀ (nnn : Addr12) (s : State),
    (decode (0x1#4 ++ nnn) = .ok (.jp nnn) ∧ ∃ t, exec (.jp nnn) s = .next t ∧
      t.pc.toNat = nnn.toNat ∧ Frame { pc := true } s t) ∧
    (decode (0xB#4 ++ nnn) = .ok (.jpV0 nnn) ∧ ∃ t, exec (.jpV0 nnn) s = .next t ∧
      t.pc.toNat = nnn.toNat + (reg s 0).toNat ∧ Frame { pc := true } s t)

/-- R103, R104: `3xkk` skips when `V[x] = kk`, `4xkk` when not. -/
def Obligations.SkipsOnImmediate : Prop :=
  ∀ (x : Reg) (kk : Byte) (s : State),
    (decode (0x3#4 ++ regBits x ++ kk) = .ok (.seImm x kk) ∧ ∃ t, exec (.seImm x kk) s = .next t ∧
      t.pc = (if reg s x = kk then s.pc + 2#16 else s.pc) ∧ Frame { pc := true } s t) ∧
    (decode (0x4#4 ++ regBits x ++ kk) = .ok (.sneImm x kk) ∧ ∃ t, exec (.sneImm x kk) s = .next t ∧
      t.pc = (if reg s x = kk then s.pc else s.pc + 2#16) ∧ Frame { pc := true } s t)

/-- R105, R106: `5xy0` skips when `V[x] = V[y]`, `9xy0` when not; other low nibbles are illegal. -/
def Obligations.SkipsOnRegisters : Prop :=
  ∀ (x y : Reg) (s : State),
    (decode (0x5#4 ++ regBits x ++ regBits y ++ 0x0#4) = .ok (.seReg x y) ∧ ∃ t, exec (.seReg x y) s = .next t ∧
      t.pc = (if reg s x = reg s y then s.pc + 2#16 else s.pc) ∧ Frame { pc := true } s t) ∧
    (decode (0x9#4 ++ regBits x ++ regBits y ++ 0x0#4) = .ok (.sneReg x y) ∧ ∃ t, exec (.sneReg x y) s = .next t ∧
      t.pc = (if reg s x = reg s y then s.pc else s.pc + 2#16) ∧ Frame { pc := true } s t) ∧
    (∀ n : BitVec 4, n ≠ 0#4 →
      decode (0x5#4 ++ regBits x ++ regBits y ++ n) = .error .type5 ∧
      decode (0x9#4 ++ regBits x ++ regBits y ++ n) = .error .type9)

/-- R108, R109: `Ex9E` skips when the key whose number is the whole `V[x]` is pressed, `ExA1` when not; a number above
0xF is no key (the spec's decision D6, log entry 13). -/
def Obligations.SkipsOnKey : Prop :=
  ∀ (x : Reg) (s : State),
    (decode (0xE#4 ++ regBits x ++ 0x9E#8) = .ok (.skp x) ∧ ∃ t, exec (.skp x) s = .next t ∧
      t.pc = (if (reg s x).toNat ≤ 15 ∧ s.keys.getLsbD (reg s x).toNat = true then s.pc + 2#16 else s.pc) ∧
      Frame { pc := true } s t) ∧
    (decode (0xE#4 ++ regBits x ++ 0xA1#8) = .ok (.sknp x) ∧ ∃ t, exec (.sknp x) s = .next t ∧
      t.pc = (if (reg s x).toNat ≤ 15 ∧ s.keys.getLsbD (reg s x).toNat = true then s.pc else s.pc + 2#16) ∧
      Frame { pc := true } s t)

/-! ### ALU -/

/-- R120, R121: `6xkk` loads, `7xkk` adds modulo 256 and writes no flag (for `x` = 15 `VF` is plain data). -/
def Obligations.ImmediateForms : Prop :=
  ∀ (x : Reg) (kk : Byte) (s : State),
    (decode (0x6#4 ++ regBits x ++ kk) = .ok (.ldImm x kk) ∧ ∃ t, exec (.ldImm x kk) s = .next t ∧
      reg t x = kk ∧ Frame { regs := [x] } s t) ∧
    (decode (0x7#4 ++ regBits x ++ kk) = .ok (.addImm x kk) ∧ ∃ t, exec (.addImm x kk) s = .next t ∧
      (reg t x).toNat = ((reg s x).toNat + kk.toNat) % 256 ∧ Frame { regs := [x] } s t)

/-- R122 to R125: move, or, and, xor write `V[x]` only. -/
def Obligations.MoveAndLogic : Prop :=
  ∀ (x y : Reg) (s : State),
    (decode (0x8#4 ++ regBits x ++ regBits y ++ 0x0#4) = .ok (.ldReg x y) ∧ ∃ t, exec (.ldReg x y) s = .next t ∧
      reg t x = reg s y ∧ Frame { regs := [x] } s t) ∧
    (decode (0x8#4 ++ regBits x ++ regBits y ++ 0x1#4) = .ok (.orReg x y) ∧ ∃ t, exec (.orReg x y) s = .next t ∧
      (∀ b, (reg t x).getLsbD b = ((reg s x).getLsbD b || (reg s y).getLsbD b)) ∧ Frame { regs := [x] } s t) ∧
    (decode (0x8#4 ++ regBits x ++ regBits y ++ 0x2#4) = .ok (.andReg x y) ∧ ∃ t, exec (.andReg x y) s = .next t ∧
      (∀ b, (reg t x).getLsbD b = ((reg s x).getLsbD b && (reg s y).getLsbD b)) ∧ Frame { regs := [x] } s t) ∧
    (decode (0x8#4 ++ regBits x ++ regBits y ++ 0x3#4) = .ok (.xorReg x y) ∧ ∃ t, exec (.xorReg x y) s = .next t ∧
      (∀ b, (reg t x).getLsbD b = ((reg s x).getLsbD b ^^ (reg s y).getLsbD b)) ∧ Frame { regs := [x] } s t)

/-- R126: `8xy4`; with `x` = 15 the carry is what remains. -/
def Obligations.AddWithCarry : Prop :=
  ∀ (x y : Reg) (s : State), decode (0x8#4 ++ regBits x ++ regBits y ++ 0x4#4) = .ok (.addReg x y) ∧
    ∃ t, exec (.addReg x y) s = .next t ∧
      (x ≠ vf → (reg t x).toNat = ((reg s x).toNat + (reg s y).toNat) % 256) ∧
      (reg t vf).toNat = (if (reg s x).toNat + (reg s y).toNat > 255 then 1 else 0) ∧ Frame { regs := [x, vf] } s t

/-- R127: `8xy5`; the flag is the strict comparison, so equal operands give 0. Keeping it strict is the spec's decision
D25 (log entry 17). -/
def Obligations.SubtractWithFlag : Prop :=
  ∀ (x y : Reg) (s : State), decode (0x8#4 ++ regBits x ++ regBits y ++ 0x5#4) = .ok (.subReg x y) ∧
    ∃ t, exec (.subReg x y) s = .next t ∧
      (x ≠ vf → (reg t x).toNat = ((reg s x).toNat + 256 - (reg s y).toNat) % 256) ∧
      (reg t vf).toNat = (if (reg s x).toNat > (reg s y).toNat then 1 else 0) ∧ Frame { regs := [x, vf] } s t

/-- R128: `8xy6`; `Vy` has no effect, which is the spec's decision D31 (log entry 17). It changes only as `Vx` or
`VF`, for `y` = `x` or `y` = 15. -/
def Obligations.ShiftRightWithFlag : Prop :=
  ∀ (x y : Reg) (s : State), decode (0x8#4 ++ regBits x ++ regBits y ++ 0x6#4) = .ok (.shr x y) ∧
    ∃ t, exec (.shr x y) s = .next t ∧ (x ≠ vf → (reg t x).toNat = (reg s x).toNat / 2) ∧
      (reg t vf).toNat = (reg s x).toNat % 2 ∧ Frame { regs := [x, vf] } s t

/-- R129: `8xy7`; the flag is the same predicate as that of `8xy5`, not its conventional complement.
Keeping it so is the spec's decision D25 on conflict C9 (log entry 17). -/
def Obligations.SubtractReversedWithFlag : Prop :=
  ∀ (x y : Reg) (s : State), decode (0x8#4 ++ regBits x ++ regBits y ++ 0x7#4) = .ok (.subnReg x y) ∧
    ∃ t, exec (.subnReg x y) s = .next t ∧
      (x ≠ vf → (reg t x).toNat = ((reg s y).toNat + 256 - (reg s x).toNat) % 256) ∧
      (reg t vf).toNat = (if (reg s x).toNat > (reg s y).toNat then 1 else 0) ∧ Frame { regs := [x, vf] } s t

/-- R130: `8xyE`; the flag is 0 or 1, never 0x80, and `Vy` has no effect, which is the spec's decision D31 (log
entry 17). -/
def Obligations.ShiftLeftWithFlag : Prop :=
  ∀ (x y : Reg) (s : State), decode (0x8#4 ++ regBits x ++ regBits y ++ 0xE#4) = .ok (.shl x y) ∧
    ∃ t, exec (.shl x y) s = .next t ∧ (x ≠ vf → (reg t x).toNat = (reg s x).toNat * 2 % 256) ∧
      (reg t vf).toNat = (reg s x).toNat / 128 ∧ Frame { regs := [x, vf] } s t

/-- R131: `Cxkk` writes `rnd & kk`, for every value of the step's free input `rnd`. -/
def Obligations.RandomIsMasked : Prop :=
  ∀ (x : Reg) (kk : Byte) (s : State), decode (0xC#4 ++ regBits x ++ kk) = .ok (.rnd x kk) ∧
    ∃ t, exec (.rnd x kk) s = .next t ∧
      (∀ b, (reg t x).getLsbD b = (s.rnd.getLsbD b && kk.getLsbD b)) ∧ Frame { regs := [x] } s t

/-! ### Index register and memory -/

/-- R140, R141, R142: `Annn` loads `I`, `Fx1E` adds modulo 65536 without a flag, `Fx29` gives the glyph address of the
low nibble. The wrap is the spec's decision D5 (log entry 12). -/
def Obligations.IndexRegisterWrites : Prop :=
  ∀ (nnn : Addr12) (x : Reg) (s : State),
    (decode (0xA#4 ++ nnn) = .ok (.ldI nnn) ∧ ∃ t, exec (.ldI nnn) s = .next t ∧
      t.index.toNat = nnn.toNat ∧ Frame { index := true } s t) ∧
    (decode (0xF#4 ++ regBits x ++ 0x1E#8) = .ok (.addI x) ∧ ∃ t, exec (.addI x) s = .next t ∧
      t.index.toNat = (s.index.toNat + (reg s x).toNat) % 65536 ∧ Frame { index := true } s t) ∧
    (decode (0xF#4 ++ regBits x ++ 0x29#8) = .ok (.ldF x) ∧ ∃ t, exec (.ldF x) s = .next t ∧
      t.index.toNat = 5 * ((reg s x).toNat % 16) ∧ Frame { index := true } s t)

/-- R143: `Fx33` stores hundreds, tens and units at `I`, `I + 1`, `I + 2`, or halts and stores nothing (the halt: the
spec's decision D3, log entry 11). -/
def Obligations.DecimalDigitsStored : Prop :=
  ∀ (x : Reg) (s : State), decode (0xF#4 ++ regBits x ++ 0x33#8) = .ok (.ldB x) ∧
    (s.index.toNat + 2 ≤ 0xFFF → ∃ t, exec (.ldB x) s = .next t ∧
      (readByte t (effAddr s 0)).toNat = (reg s x).toNat / 100 ∧
      (readByte t (effAddr s 1)).toNat = (reg s x).toNat / 10 % 10 ∧
      (readByte t (effAddr s 2)).toNat = (reg s x).toNat % 10 ∧
      Frame { memFrom := effAddr s 0, memLen := 3 } s t) ∧
    (s.index.toNat + 2 > 0xFFF → ∃ t, exec (.ldB x) s = .next t ∧
      t.halt = some ⟨.memoryOutOfRange, s.pc, some (0xF#4 ++ regBits x ++ 0x33#8)⟩ ∧ Frame { halt := true } s t)

/-- R144: `Fx55` stores `V0`..`Vx` at `I`..`I + x`, `I` unchanged, or halts and stores nothing (the halt: the spec's
decision D3, log entry 11). -/
def Obligations.RegistersStored : Prop :=
  ∀ (x : Reg) (s : State), decode (0xF#4 ++ regBits x ++ 0x55#8) = .ok (.storeRegs x) ∧
    (s.index.toNat + x.val ≤ 0xFFF → ∃ t, exec (.storeRegs x) s = .next t ∧
      (∀ j : Reg, j ≤ x → readByte t (effAddr s j.val) = reg s j) ∧
      Frame { memFrom := effAddr s 0, memLen := x.val + 1 } s t) ∧
    (s.index.toNat + x.val > 0xFFF → ∃ t, exec (.storeRegs x) s = .next t ∧
      t.halt = some ⟨.memoryOutOfRange, s.pc, some (0xF#4 ++ regBits x ++ 0x55#8)⟩ ∧ Frame { halt := true } s t)

/-- R145: `Fx65` loads `V0`..`Vx` from `I`..`I + x`, the other registers and `I` unchanged, or halts and loads
nothing (the halt: the spec's decision D3, log entry 11). -/
def Obligations.RegistersLoaded : Prop :=
  ∀ (x : Reg) (s : State), decode (0xF#4 ++ regBits x ++ 0x65#8) = .ok (.loadRegs x) ∧
    (s.index.toNat + x.val ≤ 0xFFF → ∃ t, exec (.loadRegs x) s = .next t ∧
      (∀ j : Reg, j ≤ x → reg t j = readByte s (effAddr s j.val)) ∧
      (∀ j : Reg, x < j → reg t j = reg s j) ∧ Frame { regs := List.finRange 16 } s t) ∧
    (s.index.toNat + x.val > 0xFFF → ∃ t, exec (.loadRegs x) s = .next t ∧
      t.halt = some ⟨.memoryOutOfRange, s.pc, some (0xF#4 ++ regBits x ++ 0x65#8)⟩ ∧ Frame { halt := true } s t)

/-- Section 6 of spec/95_test_vectors.md, from R144 and R145: a block stored and loaded back gives the stored
registers, whatever the registers hold in between. -/
def Obligations.StoreThenLoad : Prop :=
  ∀ (x : Reg) (s : State) (w : Vector Byte 16), s.index.toNat + x.val ≤ 0xFFF →
    ∃ t u, exec (.storeRegs x) s = .next t ∧ exec (.loadRegs x) (setRegs t w) = .next u ∧
      (∀ j : Reg, j ≤ x → reg u j = reg s j) ∧ (∀ j : Reg, x < j → reg u j = w[j.val]) ∧ u.index = s.index

/-- R66, R204: a store into code is what the next fetch there reads. -/
def Obligations.StoredCodeIsFetched : Prop :=
  ∀ (x : Reg) (s : State), 1 ≤ x.val → s.index.toNat + x.val ≤ 0xFFF →
    ∃ t, exec (.storeRegs x) s = .next t ∧ fetchWord (setPc t s.index) = (reg s 0 ++ reg s 1 : BitVec (8 + 8))

/-- The model's memory (R33, R58, log entry 8): two memories in canonical form that read the same at every address are
the same data. -/
def Obligations.CanonicalMemoryIsUnique : Prop :=
  ∀ m m' : Memory, Memory.wf m → Memory.wf m' → (∀ a, memRead m a = memRead m' a) → m = m'

/-! ### Display -/

/-- R150: `00E0` turns every pixel off and writes nothing else. -/
def Obligations.ClearTurnsAllOff : Prop :=
  decode 0x00E0#16 = .ok .cls ∧ ∀ s : State, ∃ t, exec .cls s = .next t ∧ (∀ px py, pixel t px py = false) ∧
    Frame { disp := true } s t

/-- R151: `Dxyn` XORs the sprite at the old `Vx`, `Vy` onto the surface, each pixel off it dropped; `VF` tells whether
a lit pixel met a 1 bit; out of range it halts and draws nothing. The halt is the spec's decisions D3 and D4 (log
entry 11), the order of reading and the width of the sums its decisions D15 and D16 (log entry 15). -/
def Obligations.DrawXorsSprite : Prop :=
  ∀ (x y : Reg) (n : Nat) (s : State),
    (n ≤ 15 → decode (0xD#4 ++ regBits x ++ regBits y ++ BitVec.ofNat 4 n) = .ok (.drw x y n)) ∧
    ((n = 0 ∨ s.index.toNat + (n - 1) ≤ 0xFFF) → ∃ t, exec (.drw x y n) s = .next t ∧
      (∀ px py, px < 64 → py < 32 →
        pixel t px py = (pixel s px py ^^ spriteCovers s (reg s x).toNat (reg s y).toNat n px py)) ∧
      ((∃ px py, px < 64 ∧ py < 32 ∧ pixel s px py = true ∧
          spriteCovers s (reg s x).toNat (reg s y).toNat n px py = true) → reg t vf = 1#8) ∧
      ((∀ px py, px < 64 → py < 32 → pixel s px py = true →
          spriteCovers s (reg s x).toNat (reg s y).toNat n px py = false) → reg t vf = 0#8) ∧
      Frame { regs := [vf], disp := true } s t) ∧
    (n ≠ 0 → s.index.toNat + (n - 1) > 0xFFF → ∃ t, exec (.drw x y n) s = .next t ∧
      t.halt = some ⟨.memoryOutOfRange, s.pc, some (0xD#4 ++ regBits x ++ regBits y ++ BitVec.ofNat 4 n)⟩ ∧
      Frame { halt := true } s t)

/-- R152, R153: an origin right of column 63 or below row 31 draws nothing and clears `VF`; nothing wraps around
(the spec's decision D16, log entry 15). -/
def Obligations.OffscreenDrawDrawsNothing : Prop :=
  ∀ (x y : Reg) (n : Nat) (s : State), (n = 0 ∨ s.index.toNat + (n - 1) ≤ 0xFFF) →
    (64 ≤ (reg s x).toNat ∨ 32 ≤ (reg s y).toNat) →
    ∃ t, exec (.drw x y n) s = .next t ∧ (∀ px py, pixel t px py = pixel s px py) ∧ reg t vf = 0#8

/-- R151, R156 and the source's example S8: drawing the same sprite twice at the same place restores the display. -/
def Obligations.DrawTwiceRestores : Prop :=
  ∀ (x y : Reg) (n : Nat) (s : State), x ≠ vf → y ≠ vf → (n = 0 ∨ s.index.toNat + (n - 1) ≤ 0xFFF) →
    ∃ t u, exec (.drw x y n) s = .next t ∧ exec (.drw x y n) t = .next u ∧ ∀ px py, pixel u px py = pixel s px py

/-! ### Placeholders -/

/-- R160 to R163: `Fx07` reads zero; `Fx0A`, `Fx15`, `Fx18` change nothing and never wait. That `Fx0A` neither
waits nor reads a key is the spec's decision D28 (log entry 17). -/
def Obligations.PlaceholdersDoNothing : Prop :=
  ∀ (x : Reg) (s : State),
    (decode (0xF#4 ++ regBits x ++ 0x07#8) = .ok (.ldVxDT x) ∧ ∃ t, exec (.ldVxDT x) s = .next t ∧
      reg t x = 0#8 ∧ Frame { regs := [x] } s t) ∧
    (decode (0xF#4 ++ regBits x ++ 0x0A#8) = .ok (.ldVxK x) ∧ ∃ t, exec (.ldVxK x) s = .next t ∧ Frame {} s t) ∧
    (decode (0xF#4 ++ regBits x ++ 0x15#8) = .ok (.ldDTVx x) ∧ ∃ t, exec (.ldDTVx x) s = .next t ∧ Frame {} s t) ∧
    (decode (0xF#4 ++ regBits x ++ 0x18#8) = .ok (.ldSTVx x) ∧ ∃ t, exec (.ldSTVx x) s = .next t ∧ Frame {} s t)

/-! ### Reset -/

/-- R40, R200, R202: what reset leaves, for every FONT, INIT_RAM and PROGRAM of at most 0xDFF bytes; no state for a
longer image. Zero in `V` and `I` is the spec's decision D8 (log entry 6). The model's fields `rnd` and `tick` are not
stated. -/
def Obligations.ResetLeavesItsValues : Prop :=
  ∀ (font : Vector Byte 80) (initRam : Nat → Byte) (program : List Byte),
    (program.length ≤ 0xDFF → ∃ s, State.resetWith font initRam program = some s ∧
      s.pc = 0x0200#16 ∧ (∀ r, reg s r = 0x00#8) ∧ s.index = 0x0000#16 ∧ s.stack = [] ∧
      (∀ px py, pixel s px py = false) ∧ s.halt = none ∧ s.keys = 0x0000#16 ∧
      (∀ a, (h : a < 80) → readByte s a = font[a]) ∧
      (∀ j, (h : j < program.length) → readByte s (0x200 + j) = program[j]) ∧
      (∀ a, 80 ≤ a → a < 0x1000 → (a < 0x200 ∨ 0x200 + program.length ≤ a) → readByte s a = initRam a)) ∧
    (program.length > 0xDFF → State.resetWith font initRam program = none)

/-- The model's choice (log entries 3, 4 and 5; R52, R54): `State.reset` is that reset with the default font, zero
elsewhere and an empty program. -/
def Obligations.ResetIsDefaultReset : Prop :=
  State.resetWith defaultFont (fun _ => 0x00#8) [] = some State.reset
end

