-- ==== Sys2Proof/Laws/Decode.lean ====
section
/-! SUPPORT. The formats' fields (spec/30_encoding.md R77, R78): an encoded field reads back, and the fixed bits of
a format stand where the row's mask looks. -/

namespace Sys2Proof

theorem regOfBits_regBits (r : Reg) : regOfBits (regBits r) = r := by
  revert r; decide

theorem and_zeros {w : Nat} (b : BitVec w) : b &&& 0#w = 0#w := by simp

theorem and_ones {w : Nat} (b : BitVec w) : b &&& BitVec.allOnes w = b := by simp

theorem formatA_selects (t : BitVec 4) (nnn : Addr12) : formatA t nnn &&& 0xF000 = t ++ 0#12 := by
  have h : (0xF000 : Word) = BitVec.allOnes 4 ++ 0#12 := by decide
  rw [h, formatA, BitVec.and_append, and_ones, and_zeros]

theorem formatI_selects_type (t : BitVec 4) (x : Reg) (kk : Byte) : formatI t x kk &&& 0xF000 = t ++ 0#4 ++ 0#8 := by
  have h : (0xF000 : Word) = BitVec.allOnes 4 ++ 0#4 ++ 0#8 := by decide
  rw [h, formatI, BitVec.and_append, BitVec.and_append, and_ones, and_zeros, and_zeros]

theorem formatI_selects (t : BitVec 4) (x : Reg) (kk : Byte) : formatI t x kk &&& 0xF0FF = t ++ 0#4 ++ kk := by
  have h : (0xF0FF : Word) = BitVec.allOnes 4 ++ 0#4 ++ BitVec.allOnes 8 := by decide
  rw [h, formatI, BitVec.and_append, BitVec.and_append, and_ones, and_zeros, and_ones]

theorem formatR_selects (t : BitVec 4) (x y : Reg) (n : BitVec 4) :
    formatR t x y n &&& 0xF00F = t ++ 0#4 ++ 0#4 ++ n := by
  have h : (0xF00F : Word) = BitVec.allOnes 4 ++ 0#4 ++ 0#4 ++ BitVec.allOnes 4 := by decide
  rw [h, formatR, BitVec.and_append, BitVec.and_append, BitVec.and_append, and_ones, and_zeros, and_zeros, and_ones]

theorem formatR_selects_type (t : BitVec 4) (x y : Reg) (n : BitVec 4) :
    formatR t x y n &&& 0xF000 = t ++ 0#4 ++ 0#4 ++ 0#4 := by
  have h : (0xF000 : Word) = BitVec.allOnes 4 ++ 0#4 ++ 0#4 ++ 0#4 := by decide
  rw [h, formatR, BitVec.and_append, BitVec.and_append, BitVec.and_append, and_ones, and_zeros, and_zeros, and_zeros]

/-! ### Fields of the formats -/

/-- A field of the left part of an append. -/
theorem extract_append_left {u w : Nat} (a : BitVec u) (b : BitVec w) (i l : Nat) :
    (a ++ b).extractLsb' (w + i) l = a.extractLsb' i l := by
  ext j hj
  have h1 : ¬ w + i + j < w := by omega
  have h2 : w + i + j - w = i + j := by omega
  simp only [BitVec.getElem_extractLsb', BitVec.getLsbD_append, h1, if_false, h2]

/-- A field of the right part of an append. -/
theorem extract_append_right {u w : Nat} (a : BitVec u) (b : BitVec w) (i l : Nat) (h : i + l ≤ w) :
    (a ++ b).extractLsb' i l = b.extractLsb' i l := by
  ext j hj
  have h1 : i + j < w := by omega
  simp only [BitVec.getElem_extractLsb', BitVec.getLsbD_append, h1, if_true]

theorem extract_all {w : Nat} (a : BitVec w) : a.extractLsb' 0 w = a := by
  ext j hj
  simp

theorem fieldType_formatA (t : BitVec 4) (nnn : Addr12) : fieldType (formatA t nnn) = t :=
  (extract_append_left t nnn 0 4).trans (extract_all t)

theorem fieldNNN_formatA (t : BitVec 4) (nnn : Addr12) : fieldNNN (formatA t nnn) = nnn :=
  (extract_append_right t nnn 0 12 (by decide)).trans (extract_all nnn)

theorem fieldType_formatI (t : BitVec 4) (x : Reg) (kk : Byte) : fieldType (formatI t x kk) = t :=
  ((extract_append_left (t ++ regBits x) kk 4 4).trans (extract_append_left t (regBits x) 0 4)).trans (extract_all t)

theorem fieldX_formatI (t : BitVec 4) (x : Reg) (kk : Byte) : fieldX (formatI t x kk) = x :=
  (congrArg regOfBits (((extract_append_left (t ++ regBits x) kk 0 4).trans
    (extract_append_right t (regBits x) 0 4 (by decide))).trans (extract_all _))).trans (regOfBits_regBits x)

theorem fieldKK_formatI (t : BitVec 4) (x : Reg) (kk : Byte) : fieldKK (formatI t x kk) = kk :=
  (extract_append_right (t ++ regBits x) kk 0 8 (by decide)).trans (extract_all kk)

theorem fieldType_formatR (t : BitVec 4) (x y : Reg) (n : BitVec 4) : fieldType (formatR t x y n) = t :=
  (((extract_append_left (t ++ regBits x ++ regBits y) n 8 4).trans
    (extract_append_left (t ++ regBits x) (regBits y) 4 4)).trans
    (extract_append_left t (regBits x) 0 4)).trans (extract_all t)

theorem fieldX_formatR (t : BitVec 4) (x y : Reg) (n : BitVec 4) : fieldX (formatR t x y n) = x :=
  (congrArg regOfBits ((((extract_append_left (t ++ regBits x ++ regBits y) n 4 4).trans
    (extract_append_left (t ++ regBits x) (regBits y) 0 4)).trans
    (extract_append_right t (regBits x) 0 4 (by decide))).trans (extract_all _))).trans (regOfBits_regBits x)

theorem fieldY_formatR (t : BitVec 4) (x y : Reg) (n : BitVec 4) : fieldY (formatR t x y n) = y :=
  (congrArg regOfBits (((extract_append_left (t ++ regBits x ++ regBits y) n 0 4).trans
    (extract_append_right (t ++ regBits x) (regBits y) 0 4 (by decide))).trans (extract_all _))).trans
    (regOfBits_regBits y)

theorem fieldN_formatR (t : BitVec 4) (x y : Reg) (n : BitVec 4) : fieldN (formatR t x y n) = n :=
  (extract_append_right (t ++ regBits x ++ regBits y) n 0 4 (by decide)).trans (extract_all n)

end Sys2Proof
end

