-- ==== Sys2Proof/Laws/Memory.lean ====
section
/-! SUPPORT. The laws of memory: a read after a write, and that every operation keeps the canonical form. -/

namespace Sys2Proof.Machine

theorem memRead_insertCell (m : Memory) (a c : Nat) (b : Byte) (h : ∀ d ∈ m, d.1 ≠ a) :
    memRead (insertCell a b m) c = if c = a then b else memRead m c := by
  induction m with
  | nil =>
    by_cases hc : c = a
    · simp [insertCell, memRead, hc]
    · simp [insertCell, memRead, hc, Ne.symm hc]
  | cons d m ih =>
    obtain ⟨k, e⟩ := d
    have hk : k ≠ a := h (k, e) (by simp)
    have ih := ih fun d hd => h d (by simp [hd])
    by_cases hlt : a < k
    · simp only [insertCell, hlt, if_true, memRead]
      by_cases hc : c = a
      · simp [hc]
      · simp [hc, Ne.symm hc]
    · simp only [insertCell, hlt, if_false, memRead, ih]
      by_cases hkc : k = c
      · subst hkc; simp [hk]
      · simp [hkc]

theorem memRead_filter (m : Memory) (a c : Nat) :
    memRead (m.filter (fun d => d.1 ≠ a)) c = if c = a then unlistedByte a else memRead m c := by
  induction m with
  | nil => by_cases hc : c = a <;> simp [memRead, hc]
  | cons d m ih =>
    obtain ⟨k, e⟩ := d
    by_cases hk : k = a
    · subst hk
      by_cases hc : c = k
      · simpa [hc] using ih
      · have : ¬ k = c := fun h => hc h.symm
        simpa [memRead, hc, this] using ih
    · by_cases hkc : k = c
      · subst hkc; simp [memRead, hk]
      · simpa [memRead, hk, hkc] using ih

/-- A write changes exactly the addressed byte, and a read gives the latest write (R60, R64). -/
theorem memRead_memWrite (m : Memory) (a c : Nat) (b : Byte) :
    memRead (memWrite m a b) c = if c = a then b else memRead m c := by
  unfold memWrite
  split
  · next h => rw [memRead_filter]; by_cases hc : c = a <;> simp [hc, h]
  · rw [memRead_insertCell _ _ _ _ (by simp), memRead_filter]
    by_cases hc : c = a <;> simp [hc]

/-- A run of bytes reads back byte for byte, and every other address is as before. -/
theorem memRead_memWriteList (bs : List Byte) (m : Memory) (a c : Nat) :
    memRead (memWriteList m a bs) c =
      if a ≤ c ∧ c < a + bs.length then bs.getD (c - a) 0#8 else memRead m c := by
  induction bs generalizing m a with
  | nil => simp [memWriteList]
  | cons b bs ih =>
    rw [memWriteList, ih, memRead_memWrite, List.length_cons]
    rcases Nat.lt_trichotomy c a with h | h | h
    · have h1 : ¬ (a + 1 ≤ c ∧ c < a + 1 + bs.length) := by omega
      have h2 : ¬ (a ≤ c ∧ c < a + (bs.length + 1)) := by omega
      have h3 : c ≠ a := by omega
      rw [if_neg h1, if_neg h2, if_neg h3]
    · subst h; simp
    · have h3 : c ≠ a := by omega
      obtain ⟨j, rfl⟩ : ∃ j, c = a + 1 + j := ⟨c - (a + 1), by omega⟩
      have e1 : a + 1 + j - a = j + 1 := by omega
      have e2 : a + 1 + j - (a + 1) = j := by omega
      by_cases hin : j < bs.length
      · have h1 : a + 1 ≤ a + 1 + j ∧ a + 1 + j < a + 1 + bs.length := by omega
        have h2 : a ≤ a + 1 + j ∧ a + 1 + j < a + (bs.length + 1) := by omega
        rw [if_pos h1, if_pos h2, e1, e2, List.getD_cons_succ]
      · have h1 : ¬ (a + 1 ≤ a + 1 + j ∧ a + 1 + j < a + 1 + bs.length) := by omega
        have h2 : ¬ (a ≤ a + 1 + j ∧ a + 1 + j < a + (bs.length + 1)) := by omega
        rw [if_neg h1, if_neg h2, if_neg h3]

theorem mem_insertCell (m : Memory) (a : Nat) (b : Byte) (d : Host.Cell) :
    d ∈ insertCell a b m ↔ d = (a, b) ∨ d ∈ m := by
  induction m with
  | nil => simp [insertCell]
  | cons e m ih =>
    obtain ⟨k, e⟩ := e
    unfold insertCell
    split
    · simp
    · simp only [List.mem_cons, ih]; tauto

theorem insertCell_sorted (m : Memory) (a : Nat) (b : Byte)
    (hs : List.Pairwise (fun c d : Host.Cell => c.1 < d.1) m) (ha : ∀ d ∈ m, d.1 ≠ a) :
    List.Pairwise (fun c d : Host.Cell => c.1 < d.1) (insertCell a b m) := by
  induction m with
  | nil => simp [insertCell]
  | cons e m ih =>
    obtain ⟨k, e⟩ := e
    rw [List.pairwise_cons] at hs
    unfold insertCell
    split
    · next hlt =>
      refine List.pairwise_cons.2 ⟨?_, List.pairwise_cons.2 hs⟩
      intro d hd
      rcases List.mem_cons.1 hd with rfl | hd
      · exact hlt
      · exact Nat.lt_trans hlt (hs.1 d hd)
    · next hlt =>
      have hk : k ≠ a := ha (k, e) (by simp)
      refine List.pairwise_cons.2 ⟨?_, ih hs.2 fun d hd => ha d (by simp [hd])⟩
      intro d hd
      rcases (mem_insertCell m a b d).1 hd with rfl | hd
      · simp only; omega
      · exact hs.1 d hd

theorem reset_memory_wf : Memory.wf [] := ⟨List.Pairwise.nil, by simp⟩

/-- A write inside memory keeps the canonical form. -/
theorem memWrite_wf (m : Memory) (a : Nat) (b : Byte) (h : Memory.wf m) (ha : a < Config.memSize) :
    Memory.wf (memWrite m a b) := by
  obtain ⟨hs, hm⟩ := h
  have hfs := hs.filter (fun c => decide (c.1 ≠ a))
  have hfm : ∀ d ∈ m.filter (fun c => c.1 ≠ a), d.1 < Config.memSize ∧ d.2 ≠ unlistedByte d.1 :=
    fun d hd => hm d (List.mem_of_mem_filter hd)
  unfold memWrite
  split
  · exact ⟨hfs, hfm⟩
  · next hb =>
    refine ⟨insertCell_sorted _ _ _ hfs (by simp), ?_⟩
    intro d hd
    rcases (mem_insertCell _ a b d).1 hd with rfl | hd
    · exact ⟨ha, hb⟩
    · exact hfm d hd

/-- So does a run of bytes inside memory. -/
theorem memWriteList_wf (bs : List Byte) (m : Memory) (a : Nat) (h : Memory.wf m)
    (ha : a + bs.length ≤ Config.memSize) : Memory.wf (memWriteList m a bs) := by
  induction bs generalizing m a with
  | nil => exact h
  | cons b bs ih =>
    rw [List.length_cons] at ha
    exact ih _ _ (memWrite_wf m a b h (by omega)) (by omega)

end Sys2Proof.Machine
end

