-- ==== Sys2Proof/Laws/State.lean ====
section
/-! SUPPORT. What each named update does to each field of State, one lemma per field per update. -/

namespace Sys2Proof.Machine

variable (s : State)

@[simp] theorem setReg_v (r : Reg) (b : Byte) : (setReg s r b).v = s.v.set r.val b r.isLt := rfl
@[simp] theorem setReg_index (r : Reg) (b : Byte) : (setReg s r b).index = s.index := rfl
@[simp] theorem setReg_pc (r : Reg) (b : Byte) : (setReg s r b).pc = s.pc := rfl
@[simp] theorem setReg_stack (r : Reg) (b : Byte) : (setReg s r b).stack = s.stack := rfl
@[simp] theorem setReg_mem (r : Reg) (b : Byte) : (setReg s r b).mem = s.mem := rfl
@[simp] theorem setReg_disp (r : Reg) (b : Byte) : (setReg s r b).disp = s.disp := rfl
@[simp] theorem setReg_halt (r : Reg) (b : Byte) : (setReg s r b).halt = s.halt := rfl
@[simp] theorem setReg_keys (r : Reg) (b : Byte) : (setReg s r b).keys = s.keys := rfl
@[simp] theorem setReg_rnd (r : Reg) (b : Byte) : (setReg s r b).rnd = s.rnd := rfl
@[simp] theorem setReg_tick (r : Reg) (b : Byte) : (setReg s r b).tick = s.tick := rfl

@[simp] theorem setRegs_v (v : Vector Byte 16) : (setRegs s v).v = v := rfl
@[simp] theorem setRegs_index (v : Vector Byte 16) : (setRegs s v).index = s.index := rfl
@[simp] theorem setRegs_pc (v : Vector Byte 16) : (setRegs s v).pc = s.pc := rfl
@[simp] theorem setRegs_stack (v : Vector Byte 16) : (setRegs s v).stack = s.stack := rfl
@[simp] theorem setRegs_mem (v : Vector Byte 16) : (setRegs s v).mem = s.mem := rfl
@[simp] theorem setRegs_disp (v : Vector Byte 16) : (setRegs s v).disp = s.disp := rfl
@[simp] theorem setRegs_halt (v : Vector Byte 16) : (setRegs s v).halt = s.halt := rfl
@[simp] theorem setRegs_keys (v : Vector Byte 16) : (setRegs s v).keys = s.keys := rfl
@[simp] theorem setRegs_rnd (v : Vector Byte 16) : (setRegs s v).rnd = s.rnd := rfl
@[simp] theorem setRegs_tick (v : Vector Byte 16) : (setRegs s v).tick = s.tick := rfl

@[simp] theorem setIndex_v (w : Word) : (setIndex s w).v = s.v := rfl
@[simp] theorem setIndex_index (w : Word) : (setIndex s w).index = w := rfl
@[simp] theorem setIndex_pc (w : Word) : (setIndex s w).pc = s.pc := rfl
@[simp] theorem setIndex_stack (w : Word) : (setIndex s w).stack = s.stack := rfl
@[simp] theorem setIndex_mem (w : Word) : (setIndex s w).mem = s.mem := rfl
@[simp] theorem setIndex_disp (w : Word) : (setIndex s w).disp = s.disp := rfl
@[simp] theorem setIndex_halt (w : Word) : (setIndex s w).halt = s.halt := rfl
@[simp] theorem setIndex_keys (w : Word) : (setIndex s w).keys = s.keys := rfl
@[simp] theorem setIndex_rnd (w : Word) : (setIndex s w).rnd = s.rnd := rfl
@[simp] theorem setIndex_tick (w : Word) : (setIndex s w).tick = s.tick := rfl

@[simp] theorem setPc_v (w : Word) : (setPc s w).v = s.v := rfl
@[simp] theorem setPc_index (w : Word) : (setPc s w).index = s.index := rfl
@[simp] theorem setPc_pc (w : Word) : (setPc s w).pc = w := rfl
@[simp] theorem setPc_stack (w : Word) : (setPc s w).stack = s.stack := rfl
@[simp] theorem setPc_mem (w : Word) : (setPc s w).mem = s.mem := rfl
@[simp] theorem setPc_disp (w : Word) : (setPc s w).disp = s.disp := rfl
@[simp] theorem setPc_halt (w : Word) : (setPc s w).halt = s.halt := rfl
@[simp] theorem setPc_keys (w : Word) : (setPc s w).keys = s.keys := rfl
@[simp] theorem setPc_rnd (w : Word) : (setPc s w).rnd = s.rnd := rfl
@[simp] theorem setPc_tick (w : Word) : (setPc s w).tick = s.tick := rfl

@[simp] theorem setStack_v (l : List Word) : (setStack s l).v = s.v := rfl
@[simp] theorem setStack_index (l : List Word) : (setStack s l).index = s.index := rfl
@[simp] theorem setStack_pc (l : List Word) : (setStack s l).pc = s.pc := rfl
@[simp] theorem setStack_stack (l : List Word) : (setStack s l).stack = l := rfl
@[simp] theorem setStack_mem (l : List Word) : (setStack s l).mem = s.mem := rfl
@[simp] theorem setStack_disp (l : List Word) : (setStack s l).disp = s.disp := rfl
@[simp] theorem setStack_halt (l : List Word) : (setStack s l).halt = s.halt := rfl
@[simp] theorem setStack_keys (l : List Word) : (setStack s l).keys = s.keys := rfl
@[simp] theorem setStack_rnd (l : List Word) : (setStack s l).rnd = s.rnd := rfl
@[simp] theorem setStack_tick (l : List Word) : (setStack s l).tick = s.tick := rfl

@[simp] theorem setMem_v (m : Memory) : (setMem s m).v = s.v := rfl
@[simp] theorem setMem_index (m : Memory) : (setMem s m).index = s.index := rfl
@[simp] theorem setMem_pc (m : Memory) : (setMem s m).pc = s.pc := rfl
@[simp] theorem setMem_stack (m : Memory) : (setMem s m).stack = s.stack := rfl
@[simp] theorem setMem_mem (m : Memory) : (setMem s m).mem = m := rfl
@[simp] theorem setMem_disp (m : Memory) : (setMem s m).disp = s.disp := rfl
@[simp] theorem setMem_halt (m : Memory) : (setMem s m).halt = s.halt := rfl
@[simp] theorem setMem_keys (m : Memory) : (setMem s m).keys = s.keys := rfl
@[simp] theorem setMem_rnd (m : Memory) : (setMem s m).rnd = s.rnd := rfl
@[simp] theorem setMem_tick (m : Memory) : (setMem s m).tick = s.tick := rfl

@[simp] theorem setDisp_v (d : Display) : (setDisp s d).v = s.v := rfl
@[simp] theorem setDisp_index (d : Display) : (setDisp s d).index = s.index := rfl
@[simp] theorem setDisp_pc (d : Display) : (setDisp s d).pc = s.pc := rfl
@[simp] theorem setDisp_stack (d : Display) : (setDisp s d).stack = s.stack := rfl
@[simp] theorem setDisp_mem (d : Display) : (setDisp s d).mem = s.mem := rfl
@[simp] theorem setDisp_disp (d : Display) : (setDisp s d).disp = d := rfl
@[simp] theorem setDisp_halt (d : Display) : (setDisp s d).halt = s.halt := rfl
@[simp] theorem setDisp_keys (d : Display) : (setDisp s d).keys = s.keys := rfl
@[simp] theorem setDisp_rnd (d : Display) : (setDisp s d).rnd = s.rnd := rfl
@[simp] theorem setDisp_tick (d : Display) : (setDisp s d).tick = s.tick := rfl

@[simp] theorem setHalt_v (h : Option HaltRecord) : (setHalt s h).v = s.v := rfl
@[simp] theorem setHalt_index (h : Option HaltRecord) : (setHalt s h).index = s.index := rfl
@[simp] theorem setHalt_pc (h : Option HaltRecord) : (setHalt s h).pc = s.pc := rfl
@[simp] theorem setHalt_stack (h : Option HaltRecord) : (setHalt s h).stack = s.stack := rfl
@[simp] theorem setHalt_mem (h : Option HaltRecord) : (setHalt s h).mem = s.mem := rfl
@[simp] theorem setHalt_disp (h : Option HaltRecord) : (setHalt s h).disp = s.disp := rfl
@[simp] theorem setHalt_halt (h : Option HaltRecord) : (setHalt s h).halt = h := rfl
@[simp] theorem setHalt_keys (h : Option HaltRecord) : (setHalt s h).keys = s.keys := rfl
@[simp] theorem setHalt_rnd (h : Option HaltRecord) : (setHalt s h).rnd = s.rnd := rfl
@[simp] theorem setHalt_tick (h : Option HaltRecord) : (setHalt s h).tick = s.tick := rfl

@[simp] theorem advance_v : (advance s).v = s.v := rfl
@[simp] theorem advance_index : (advance s).index = s.index := rfl
@[simp] theorem advance_pc : (advance s).pc = s.pc + 2#16 := rfl
@[simp] theorem advance_stack : (advance s).stack = s.stack := rfl
@[simp] theorem advance_mem : (advance s).mem = s.mem := rfl
@[simp] theorem advance_disp : (advance s).disp = s.disp := rfl
@[simp] theorem advance_halt : (advance s).halt = s.halt := rfl
@[simp] theorem advance_keys : (advance s).keys = s.keys := rfl
@[simp] theorem advance_rnd : (advance s).rnd = s.rnd := rfl
@[simp] theorem advance_tick : (advance s).tick = s.tick := rfl

@[simp] theorem skip_v : (skip s).v = s.v := rfl
@[simp] theorem skip_index : (skip s).index = s.index := rfl
@[simp] theorem skip_pc : (skip s).pc = s.pc + 2#16 := rfl
@[simp] theorem skip_stack : (skip s).stack = s.stack := rfl
@[simp] theorem skip_mem : (skip s).mem = s.mem := rfl
@[simp] theorem skip_disp : (skip s).disp = s.disp := rfl
@[simp] theorem skip_halt : (skip s).halt = s.halt := rfl
@[simp] theorem skip_keys : (skip s).keys = s.keys := rfl
@[simp] theorem skip_rnd : (skip s).rnd = s.rnd := rfl
@[simp] theorem skip_tick : (skip s).tick = s.tick := rfl

@[simp] theorem push_v (w : Word) : (push s w).v = s.v := rfl
@[simp] theorem push_index (w : Word) : (push s w).index = s.index := rfl
@[simp] theorem push_pc (w : Word) : (push s w).pc = s.pc := rfl
@[simp] theorem push_stack (w : Word) : (push s w).stack = s.stack ++ [w] := rfl
@[simp] theorem push_mem (w : Word) : (push s w).mem = s.mem := rfl
@[simp] theorem push_disp (w : Word) : (push s w).disp = s.disp := rfl
@[simp] theorem push_halt (w : Word) : (push s w).halt = s.halt := rfl
@[simp] theorem push_keys (w : Word) : (push s w).keys = s.keys := rfl
@[simp] theorem push_rnd (w : Word) : (push s w).rnd = s.rnd := rfl
@[simp] theorem push_tick (w : Word) : (push s w).tick = s.tick := rfl

@[simp] theorem hostInput_v : (hostInput s).v = s.v := rfl
@[simp] theorem hostInput_index : (hostInput s).index = s.index := rfl
@[simp] theorem hostInput_pc : (hostInput s).pc = s.pc := rfl
@[simp] theorem hostInput_stack : (hostInput s).stack = s.stack := rfl
@[simp] theorem hostInput_mem : (hostInput s).mem = s.mem := rfl
@[simp] theorem hostInput_disp : (hostInput s).disp = s.disp := rfl
@[simp] theorem hostInput_halt : (hostInput s).halt = s.halt := rfl
@[simp] theorem hostInput_keys : (hostInput s).keys = Config.hostKeys s.tick := rfl
@[simp] theorem hostInput_rnd : (hostInput s).rnd = Config.hostRnd s.tick := rfl
@[simp] theorem hostInput_tick : (hostInput s).tick = s.tick + 1 := rfl

@[simp] theorem skipIf_v (c : Bool) : (skipIf c s).v = s.v := rfl
@[simp] theorem skipIf_index (c : Bool) : (skipIf c s).index = s.index := rfl
@[simp] theorem skipIf_pc (c : Bool) : (skipIf c s).pc = if c then s.pc + 2#16 else s.pc := rfl
@[simp] theorem skipIf_stack (c : Bool) : (skipIf c s).stack = s.stack := rfl
@[simp] theorem skipIf_mem (c : Bool) : (skipIf c s).mem = s.mem := rfl
@[simp] theorem skipIf_disp (c : Bool) : (skipIf c s).disp = s.disp := rfl
@[simp] theorem skipIf_halt (c : Bool) : (skipIf c s).halt = s.halt := rfl
@[simp] theorem skipIf_keys (c : Bool) : (skipIf c s).keys = s.keys := rfl
@[simp] theorem skipIf_rnd (c : Bool) : (skipIf c s).rnd = s.rnd := rfl
@[simp] theorem skipIf_tick (c : Bool) : (skipIf c s).tick = s.tick := rfl

/-- The state after reset, field by field (R40). -/
theorem reset_fields : State.reset.pc = 0x0200#16 ∧ State.reset.index = 0#16 ∧ State.reset.stack = [] ∧
    State.reset.mem = [] ∧ State.reset.halt = none ∧ State.reset.keys = 0#16 :=
  ⟨rfl, rfl, rfl, rfl, rfl, rfl⟩

end Sys2Proof.Machine
end

