-- ==== Sys2Proof/Laws/Ops.lean ====
section
/-! SUPPORT. One lemma per shared operation that says what it does; proofs cite these and unfold nothing. -/

namespace Sys2Proof.Machine

variable (s : State)

/-! ### Registers -/

@[simp] theorem reg_setReg (r q : Reg) (b : Byte) : reg (setReg s r b) q = if q = r then b else reg s q := by
  unfold reg
  simp only [setReg_v, Vector.getElem_set]
  by_cases h : q = r
  · simp [h]
  · have : ¬ r.val = q.val := fun e => h (Fin.ext e.symm)
    simp [h, this]

/-- With `x` = 15 the flag is what remains (R22). -/
theorem reg_setRegFlag (x q : Reg) (result flag : Byte) :
    reg (setRegFlag s x result flag) q = if q = vf then flag else if q = x then result else reg s q := by
  simp [setRegFlag]

@[simp] theorem reg_setRegs (v : Vector Byte 16) (q : Reg) : reg (setRegs s v) q = v[q.val] := rfl
@[simp] theorem reg_setIndex (w : Word) (q : Reg) : reg (setIndex s w) q = reg s q := rfl
@[simp] theorem reg_setPc (w : Word) (q : Reg) : reg (setPc s w) q = reg s q := rfl
@[simp] theorem reg_setStack (l : List Word) (q : Reg) : reg (setStack s l) q = reg s q := rfl
@[simp] theorem reg_setMem (m : Memory) (q : Reg) : reg (setMem s m) q = reg s q := rfl
@[simp] theorem reg_setDisp (d : Display) (q : Reg) : reg (setDisp s d) q = reg s q := rfl
@[simp] theorem reg_setHalt (h : Option HaltRecord) (q : Reg) : reg (setHalt s h) q = reg s q := rfl
@[simp] theorem reg_advance (q : Reg) : reg (advance s) q = reg s q := rfl
@[simp] theorem reg_hostInput (q : Reg) : reg (hostInput s) q = reg s q := rfl
@[simp] theorem reg_skipIf (c : Bool) (q : Reg) : reg (skipIf c s) q = reg s q := rfl
@[simp] theorem reg_push (w : Word) (q : Reg) : reg (push s w) q = reg s q := rfl

theorem flagByte_eq (c : Bool) : flagByte c = if c = true then 1#8 else 0#8 := by cases c <;> rfl

/-- The block load writes exactly `V0`..`Vx` (R145). -/
theorem loadedRegs_get (x q : Reg) :
    (loadedRegs s x)[q.val] = if q ≤ x then readByte s (s.index.toNat + q.val) else reg s q := by
  simp [loadedRegs, effAddr]

/-- The block store's bytes are `V0`..`Vx` in order (R144). -/
theorem regsUpTo_length (x : Reg) : (regsUpTo s x).length = x.val + 1 := by
  have := x.isLt
  simp [regsUpTo]

theorem regsUpTo_getD (x q : Reg) (h : q ≤ x) : (regsUpTo s x).getD q.val 0#8 = reg s q := by
  have hx := x.isLt
  have hq : q.val < x.val + 1 := Nat.lt_succ_of_le h
  have hl : q.val < (regsUpTo s x).length := by rw [regsUpTo_length]; exact hq
  rw [List.getD_eq_getElem _ _ hl]
  simp [regsUpTo, reg]

/-! ### Memory -/

@[simp] theorem readByte_setMem (m : Memory) (a : Nat) : readByte (setMem s m) a = memRead m a := rfl
@[simp] theorem readByte_setReg (r : Reg) (b : Byte) (a : Nat) : readByte (setReg s r b) a = readByte s a := rfl
@[simp] theorem readByte_setRegs (v : Vector Byte 16) (a : Nat) : readByte (setRegs s v) a = readByte s a := rfl
@[simp] theorem readByte_setIndex (w : Word) (a : Nat) : readByte (setIndex s w) a = readByte s a := rfl
@[simp] theorem readByte_setPc (w : Word) (a : Nat) : readByte (setPc s w) a = readByte s a := rfl
@[simp] theorem readByte_setStack (l : List Word) (a : Nat) : readByte (setStack s l) a = readByte s a := rfl
@[simp] theorem readByte_setDisp (d : Display) (a : Nat) : readByte (setDisp s d) a = readByte s a := rfl
@[simp] theorem readByte_setHalt (h : Option HaltRecord) (a : Nat) : readByte (setHalt s h) a = readByte s a := rfl
@[simp] theorem readByte_advance (a : Nat) : readByte (advance s) a = readByte s a := rfl
@[simp] theorem readByte_hostInput (a : Nat) : readByte (hostInput s) a = readByte s a := rfl
@[simp] theorem readByte_skipIf (c : Bool) (a : Nat) : readByte (skipIf c s) a = readByte s a := rfl
@[simp] theorem readByte_push (w : Word) (a : Nat) : readByte (push s w) a = readByte s a := rfl

theorem inMemory_iff (k : Nat) : inMemory s k = true ↔ s.index.toNat + k ≤ 0xFFF :=
  decide_eq_true_iff

theorem spriteInMemory_iff (n : Nat) :
    spriteInMemory s n = true ↔ n = 0 ∨ s.index.toNat + (n - 1) ≤ 0xFFF := by
  simp [spriteInMemory, inMemory_iff]

theorem stackFull_iff : stackFull s = true ↔ 16 ≤ s.stack.length :=
  decide_eq_true_iff

/-- A key is pressed when its number, the whole register, is at most 0xF and its latch bit is set (R108). -/
theorem keyPressed_iff (x : Reg) :
    keyPressed s x = true ↔ (reg s x).toNat ≤ 15 ∧ s.keys.getLsbD (reg s x).toNat = true := by
  unfold keyPressed
  rw [Bool.and_eq_true, decide_eq_true_iff]

theorem bcdDigits_length (b : Byte) : (bcdDigits b).length = 3 := rfl

/-! ### Display -/

@[simp] theorem pixel_setDisp (d : Display) (px py : Nat) : pixel (setDisp s d) px py = pixelOf d px py := rfl
@[simp] theorem pixel_setReg (r : Reg) (b : Byte) (px py : Nat) : pixel (setReg s r b) px py = pixel s px py := rfl
@[simp] theorem pixel_setRegs (v : Vector Byte 16) (px py : Nat) : pixel (setRegs s v) px py = pixel s px py := rfl
@[simp] theorem pixel_setIndex (w : Word) (px py : Nat) : pixel (setIndex s w) px py = pixel s px py := rfl
@[simp] theorem pixel_setPc (w : Word) (px py : Nat) : pixel (setPc s w) px py = pixel s px py := rfl
@[simp] theorem pixel_setStack (l : List Word) (px py : Nat) : pixel (setStack s l) px py = pixel s px py := rfl
@[simp] theorem pixel_setMem (m : Memory) (px py : Nat) : pixel (setMem s m) px py = pixel s px py := rfl
@[simp] theorem pixel_setHalt (h : Option HaltRecord) (px py : Nat) : pixel (setHalt s h) px py = pixel s px py := rfl
@[simp] theorem pixel_advance (px py : Nat) : pixel (advance s) px py = pixel s px py := rfl
@[simp] theorem pixel_hostInput (px py : Nat) : pixel (hostInput s) px py = pixel s px py := rfl
@[simp] theorem pixel_skipIf (c : Bool) (px py : Nat) : pixel (skipIf c s) px py = pixel s px py := rfl
@[simp] theorem pixel_push (w : Word) (px py : Nat) : pixel (push s w) px py = pixel s px py := rfl

theorem pixelOf_blankDisplay (px py : Nat) : pixelOf blankDisplay px py = false := by
  unfold pixelOf blankDisplay
  split <;> simp

/-- Writing a pixel of the surface changes that pixel and no other (R30). -/
theorem pixelOf_setPixelOf (d : Display) (px py qx qy : Nat) (b : Bool) (h : px < 64 ∧ py < 32) :
    pixelOf (setPixelOf d px py b) qx qy = if qx = px ∧ qy = py then b else pixelOf d qx qy := by
  unfold pixelOf setPixelOf
  rw [dif_pos (show px < Config.dispW ∧ py < Config.dispH from h)]
  by_cases hq : qx < Config.dispW ∧ qy < Config.dispH
  · simp only [hq, and_self, dif_pos, Vector.getElem_set]
    by_cases hy : py = qy
    · subst hy
      by_cases hx : px = qx
      · subst hx; simp
      · have : ¬ qx = px := fun e => hx e.symm
        simp [hx, this]
    · have : ¬ qy = py := fun e => hy e.symm
      simp [hy, this]
  · have : ¬ (qx = px ∧ qy = py) := by
      rintro ⟨rfl, rfl⟩; exact hq h
    simp [hq, this]

/-- One pixel of a sprite: off the surface nothing happens; on it the pixel is XORed (R151, R153). -/
theorem pixelOf_plot (px py qx qy : Nat) (on : Bool) (c : Display × Bool) :
    pixelOf (plot px py on c).1 qx qy =
      if (px < 64 ∧ py < 32) ∧ qx = px ∧ qy = py then (pixelOf c.1 qx qy ^^ on) else pixelOf c.1 qx qy := by
  unfold plot
  by_cases h : px < 64 ∧ py < 32
  · rw [if_pos (show px < Config.dispW ∧ py < Config.dispH from h), pixelOf_setPixelOf _ _ _ _ _ _ h]
    by_cases hq : qx = px ∧ qy = py
    · obtain ⟨rfl, rfl⟩ := hq; simp [h]
    · simp [hq]
  · rw [if_neg (show ¬ (px < Config.dispW ∧ py < Config.dispH) from h)]
    simp [h]

/-- A collision is remembered, and seen where a lit pixel of the surface meets a 1 bit (R151). -/
theorem plot_hit (px py : Nat) (on : Bool) (c : Display × Bool) :
    (plot px py on c).2 = (c.2 || (decide (px < 64 ∧ py < 32) && (pixelOf c.1 px py && on))) := by
  unfold plot
  by_cases h : px < 64 ∧ py < 32
  · rw [if_pos (show px < Config.dispW ∧ py < Config.dispH from h)]; simp [h]
  · rw [if_neg (show ¬ (px < Config.dispW ∧ py < Config.dispH) from h)]; simp [h]

end Sys2Proof.Machine
end

