-- ==== Sys2Proof/Laws/PerInstr.lean ====
section
/-! SUPPORT. Per-instruction family EncodesRow: the word an instruction encodes to selects that instruction's own row of
spec/30_encoding.md R81 (its match under its mask). -/

namespace Sys2Proof.Laws.EncodesRow

/-- The encoder's word has the fixed bits of the instruction's row. -/
def Statement (i : Instr) : Prop := (Instr.row i).selects (encode i)

theorem cls : Statement .cls := rfl
theorem ret : Statement .ret := rfl
theorem jp (nnn : Addr12) : Statement (.jp nnn) := formatA_selects _ _
theorem call (nnn : Addr12) : Statement (.call nnn) := formatA_selects _ _
theorem seImm (x : Reg) (kk : Byte) : Statement (.seImm x kk) := formatI_selects_type _ _ _
theorem sneImm (x : Reg) (kk : Byte) : Statement (.sneImm x kk) := formatI_selects_type _ _ _
theorem seReg (x : Reg) (y : Reg) : Statement (.seReg x y) := formatR_selects _ _ _ _
theorem ldImm (x : Reg) (kk : Byte) : Statement (.ldImm x kk) := formatI_selects_type _ _ _
theorem addImm (x : Reg) (kk : Byte) : Statement (.addImm x kk) := formatI_selects_type _ _ _
theorem ldReg (x : Reg) (y : Reg) : Statement (.ldReg x y) := formatR_selects _ _ _ _
theorem orReg (x : Reg) (y : Reg) : Statement (.orReg x y) := formatR_selects _ _ _ _
theorem andReg (x : Reg) (y : Reg) : Statement (.andReg x y) := formatR_selects _ _ _ _
theorem xorReg (x : Reg) (y : Reg) : Statement (.xorReg x y) := formatR_selects _ _ _ _
theorem addReg (x : Reg) (y : Reg) : Statement (.addReg x y) := formatR_selects _ _ _ _
theorem subReg (x : Reg) (y : Reg) : Statement (.subReg x y) := formatR_selects _ _ _ _
theorem shr (x : Reg) (y : Reg) : Statement (.shr x y) := formatR_selects _ _ _ _
theorem subnReg (x : Reg) (y : Reg) : Statement (.subnReg x y) := formatR_selects _ _ _ _
theorem shl (x : Reg) (y : Reg) : Statement (.shl x y) := formatR_selects _ _ _ _
theorem sneReg (x : Reg) (y : Reg) : Statement (.sneReg x y) := formatR_selects _ _ _ _
theorem ldI (nnn : Addr12) : Statement (.ldI nnn) := formatA_selects _ _
theorem jpV0 (nnn : Addr12) : Statement (.jpV0 nnn) := formatA_selects _ _
theorem rnd (x : Reg) (kk : Byte) : Statement (.rnd x kk) := formatI_selects_type _ _ _
theorem drw (x : Reg) (y : Reg) (n : Nat) : Statement (.drw x y n) := formatR_selects_type _ _ _ _
theorem skp (x : Reg) : Statement (.skp x) := formatI_selects _ _ _
theorem sknp (x : Reg) : Statement (.sknp x) := formatI_selects _ _ _
theorem ldVxDT (x : Reg) : Statement (.ldVxDT x) := formatI_selects _ _ _
theorem ldVxK (x : Reg) : Statement (.ldVxK x) := formatI_selects _ _ _
theorem ldDTVx (x : Reg) : Statement (.ldDTVx x) := formatI_selects _ _ _
theorem ldSTVx (x : Reg) : Statement (.ldSTVx x) := formatI_selects _ _ _
theorem addI (x : Reg) : Statement (.addI x) := formatI_selects _ _ _
theorem ldF (x : Reg) : Statement (.ldF x) := formatI_selects _ _ _
theorem ldB (x : Reg) : Statement (.ldB x) := formatI_selects _ _ _
theorem storeRegs (x : Reg) : Statement (.storeRegs x) := formatI_selects _ _ _
theorem loadRegs (x : Reg) : Statement (.loadRegs x) := formatI_selects _ _ _

end Sys2Proof.Laws.EncodesRow
end

