-- ==== Sys2Proof/Laws/Step.lean ====
section
/-! SUPPORT. What a step can do, said once (spec/40_engine_step.md R91): derive statements about `step` from these
cases. -/

namespace Sys2Proof.Machine

/-- The two plain tests of a step in numbers. -/
theorem pcOutOfRange_iff (s : State) : pcOutOfRange s = true ↔ 0xFFF ≤ s.pc.toNat :=
  decide_eq_true_iff

/-- The sampling of the inputs changes nothing the fetch looks at. -/
theorem fetchWord_hostInput (s : State) : fetchWord (hostInput s) = fetchWord s := rfl

/-- Every way a step answers a next state. -/
theorem step_cases {s t : State} (h : step s = .next t) :
    s.halt = none ∧
    ((0xFFF ≤ s.pc.toNat ∧ t = setHalt (hostInput s) (some ⟨.programCounterOutOfRange, s.pc, none⟩)) ∨
     (s.pc.toNat < 0xFFF ∧ (∃ e, decode (fetchWord s) = .error e) ∧
        t = setHalt (advance (hostInput s)) (some ⟨.invalidOpcode, s.pc + 2#16, some (fetchWord s)⟩)) ∨
     (s.pc.toNat < 0xFFF ∧ ∃ i, decode (fetchWord s) = .ok i ∧ exec i (advance (hostInput s)) = .next t)) := by
  unfold step at h
  split at h
  · cases h
  · next hn =>
    refine ⟨hn, ?_⟩
    unfold engineStep at h
    by_cases hpc : pcOutOfRange (hostInput s) = true
    · rw [if_pos hpc] at h
      cases h
      exact .inl ⟨(pcOutOfRange_iff _).1 hpc, rfl⟩
    · rw [if_neg hpc] at h
      have hlt : s.pc.toNat < 0xFFF := by
        have := mt (pcOutOfRange_iff (hostInput s)).2 hpc
        simpa using this
      rw [fetchWord_hostInput] at h
      split at h
      · next e he => cases h; exact .inr (.inl ⟨hlt, ⟨e, he⟩, rfl⟩)
      · next i hi => exact .inr (.inr ⟨hlt, i, hi, h⟩)

end Sys2Proof.Machine
end

