-- ==== Sys2Proof/Tests/Slice0.lean ====
section
/-! SUPPORT. The model's own tests. Expected values are those of spec/95_test_vectors.md (its sections are named) or
hand calculations from the rules named; no expected value comes from running the model. -/

namespace Sys2Proof.Tests

open Sys2Proof.Machine

/-! ### Well-formedness (R155): the one check, met at its bound and refused beyond it -/

theorem test_wellFormed_tallest : Instr.wellFormed (.drw 0 0 15) = true := by decide
theorem test_wellFormed_refuses_height_16 : Instr.wellFormed (.drw 0 0 16) = false := by decide

/-! ### Decoding: one word per constructor, written out from R78 and R81 bit by bit -/

theorem test_decode_cls : decode 0b0000000011100000#16 = .ok (.cls) := by decide
theorem test_decode_ret : decode 0b0000000011101110#16 = .ok (.ret) := by decide
theorem test_decode_jp : decode 0b0001101010111100#16 = .ok (.jp 0xABC#12) := by decide
theorem test_decode_call : decode 0b0010001100000001#16 = .ok (.call 0x301#12) := by decide
theorem test_decode_seImm : decode 0b0011001101000010#16 = .ok (.seImm 3 0x42#8) := by decide
theorem test_decode_sneImm : decode 0b0100001101000011#16 = .ok (.sneImm 3 0x43#8) := by decide
theorem test_decode_seReg : decode 0b0101000100100000#16 = .ok (.seReg 1 2) := by decide
theorem test_decode_ldImm : decode 0b0110101001111111#16 = .ok (.ldImm 10 0x7F#8) := by decide
theorem test_decode_addImm : decode 0b0111111100000001#16 = .ok (.addImm 15 0x01#8) := by decide
theorem test_decode_ldReg : decode 0b1000000100100000#16 = .ok (.ldReg 1 2) := by decide
theorem test_decode_orReg : decode 0b1000000100100001#16 = .ok (.orReg 1 2) := by decide
theorem test_decode_andReg : decode 0b1000000100100010#16 = .ok (.andReg 1 2) := by decide
theorem test_decode_xorReg : decode 0b1000000100100011#16 = .ok (.xorReg 1 2) := by decide
theorem test_decode_addReg : decode 0b1000111100010100#16 = .ok (.addReg 15 1) := by decide
theorem test_decode_subReg : decode 0b1000000011110101#16 = .ok (.subReg 0 15) := by decide
theorem test_decode_shr : decode 0b1000101000110110#16 = .ok (.shr 10 3) := by decide
theorem test_decode_subnReg : decode 0b1000000000010111#16 = .ok (.subnReg 0 1) := by decide
theorem test_decode_shl : decode 0b1000000000011110#16 = .ok (.shl 0 1) := by decide
theorem test_decode_sneReg : decode 0b1001000100100000#16 = .ok (.sneReg 1 2) := by decide
theorem test_decode_ldI : decode 0b1010000100100011#16 = .ok (.ldI 0x123#12) := by decide
theorem test_decode_jpV0 : decode 0b1011111111111111#16 = .ok (.jpV0 0xFFF#12) := by decide
theorem test_decode_rnd : decode 0b1100000000001111#16 = .ok (.rnd 0 0x0F#8) := by decide
theorem test_decode_drw : decode 0b1101000100100101#16 = .ok (.drw 1 2 5) := by decide
theorem test_decode_skp : decode 0b1110000110011110#16 = .ok (.skp 1) := by decide
theorem test_decode_sknp : decode 0b1110111110100001#16 = .ok (.sknp 15) := by decide
theorem test_decode_ldVxDT : decode 0b1111001100000111#16 = .ok (.ldVxDT 3) := by decide
theorem test_decode_ldVxK : decode 0b1111001100001010#16 = .ok (.ldVxK 3) := by decide
theorem test_decode_ldDTVx : decode 0b1111001100010101#16 = .ok (.ldDTVx 3) := by decide
theorem test_decode_ldSTVx : decode 0b1111001100011000#16 = .ok (.ldSTVx 3) := by decide
theorem test_decode_addI : decode 0b1111111100011110#16 = .ok (.addI 15) := by decide
theorem test_decode_ldF : decode 0b1111000000101001#16 = .ok (.ldF 0) := by decide
theorem test_decode_ldB : decode 0b1111111100110011#16 = .ok (.ldB 15) := by decide
theorem test_decode_storeRegs : decode 0b1111001001010101#16 = .ok (.storeRegs 2) := by decide
theorem test_decode_loadRegs : decode 0b1111111101100101#16 = .ok (.loadRegs 15) := by decide

/-- Section 2's illegal words, one per row of R82. -/
theorem test_decode_illegal :
    decode 0x01E0#16 = .error .type0 ∧ decode 0x500F#16 = .error .type5 ∧ decode 0x8008#16 = .error .type8 ∧
    decode 0x9001#16 = .error .type9 ∧ decode 0xE09F#16 = .error .typeE ∧ decode 0xF01F#16 = .error .typeF ∧
    decodeBytes [0x60#8] = .error .truncated := by decide

/-- The host's numbering of a table word: its high byte is the first byte in memory (R76). -/
theorem test_decodeTableWord : decodeTableWord 16 0x8125 = some (.subReg 1 2) ∧ decodeTableWord 16 0x0000 = none := by
  decide

/-! ### One step: the reset state with some registers set, the word placed at `PC`, the engine's step with the inputs of
the state (spec/95, conventions) -/

/-- The engine's step on a state with a word placed where it fetches. -/
def run (w : Word) (s : State) : Option State :=
  match engineStep (placeWord s w) with
  | .next t => some t
  | _ => none

/-- Reset with some registers set. -/
def withV (l : List (Reg × Byte)) : State := l.foldl (fun s p => setReg s p.1 p.2) State.reset

/-- The same with `I` and some bytes of memory. -/
def withI (i : Word) (bytes : List Byte) (l : List (Reg × Byte)) : State :=
  setMem (setIndex (withV l) i) (memWriteList [] i.toNat bytes)

/-- The same with some pixels lit. -/
def withPix (px : List (Nat × Nat)) (s : State) : State :=
  setDisp s (px.foldl (fun d p => setPixelOf d p.1 p.2 true) s.disp)

/-- `PC`, one register and `VF`. -/
def pcRegVf (r : Reg) (t : State) : Word × Byte × Byte := (t.pc, reg t r, reg t vf)

/-- `PC` and what the halt latch holds. -/
def pcHalt (t : State) : Word × Option HaltRecord := (t.pc, t.halt)

/-! #### Control flow (section 4) -/

theorem test_jp : (run 0x1FFF#16 State.reset).map pcHalt = some (0x0FFF#16, none) := by decide
/-- An odd target is accepted (D2). -/
theorem test_jp_odd : (run 0x1201#16 State.reset).map pcHalt = some (0x0201#16, none) := by decide
theorem test_call_pushes : (run 0x2300#16 State.reset).map (fun t => (t.pc, t.stack)) = some (0x0300#16, [0x0202#16]) := by decide
theorem test_call_17th : (run 0x2200#16 (setStack State.reset (List.replicate 16 0x0202#16))).map (fun t => (pcHalt t, t.stack.length)) =
    some ((0x0202#16, some ⟨.stackOverflow, 0x0202#16, some 0x2200#16⟩), 16) := by decide
theorem test_ret_pops_newest : (run 0x00EE#16 (setStack State.reset [0x0206#16, 0x0FFF#16])).map (fun t => (t.pc, t.stack)) =
    some (0x0FFF#16, [0x0206#16]) := by decide
theorem test_ret_underflow : (run 0x00EE#16 State.reset).map pcHalt = some (0x0202#16, some ⟨.stackUnderflow, 0x0202#16, some 0x00EE#16⟩) := by decide
theorem test_seImm : ((run 0x3342#16 (withV [(3, 0x42#8)])).map State.pc, (run 0x3343#16 (withV [(3, 0x42#8)])).map State.pc) =
    (some 0x0204#16, some 0x0202#16) := by decide
theorem test_sneImm : ((run 0x4342#16 (withV [(3, 0x42#8)])).map State.pc, (run 0x4343#16 (withV [(3, 0x42#8)])).map State.pc) =
    (some 0x0202#16, some 0x0204#16) := by decide
theorem test_seReg : ((run 0x5120#16 (withV [(1, 7#8), (2, 7#8)])).map State.pc, (run 0x5120#16 (withV [(1, 7#8), (2, 8#8)])).map State.pc) =
    (some 0x0204#16, some 0x0202#16) := by decide
theorem test_sneReg : ((run 0x9120#16 (withV [(1, 7#8), (2, 7#8)])).map State.pc, (run 0x9120#16 (withV [(1, 7#8), (2, 8#8)])).map State.pc) =
    (some 0x0202#16, some 0x0204#16) := by decide
theorem test_jpV0_not_masked : (run 0xBFFF#16 (withV [(0, 0xFF#8)])).map pcHalt = some (0x10FE#16, none) := by decide
theorem test_skp : ((run 0xE09E#16 (withInputs (withV [(0, 5#8)]) 0x0020#16 0#8)).map State.pc,
      (run 0xE09E#16 (withInputs (withV [(0, 5#8)]) 0xFFDF#16 0#8)).map State.pc) = (some 0x0204#16, some 0x0202#16) := by decide
/-- A key number above 0xF is not pressed (D6). -/
theorem test_skp_no_such_key : (run 0xE09E#16 (withInputs (withV [(0, 0x15#8)]) 0xFFFF#16 0#8)).map State.pc = some 0x0202#16 := by decide
theorem test_sknp : ((run 0xE0A1#16 (withInputs (withV [(0, 5#8)]) 0x0020#16 0#8)).map State.pc,
      (run 0xE0A1#16 (withInputs (withV [(0, 5#8)]) 0x0000#16 0#8)).map State.pc) = (some 0x0202#16, some 0x0204#16) := by decide

/-! #### ALU (section 5) -/

theorem test_ldImm : (run 0x6A7F#16 (State.reset)).map (pcRegVf 10) = some (0x0202#16, 0x7F#8, 0x00#8) := by decide
theorem test_addImm_wraps_no_flag : (run 0x7002#16 (withV [(0, 0xFF#8), (15, 1#8)])).map (pcRegVf 0) = some (0x0202#16, 0x01#8, 0x01#8) := by decide
theorem test_ldReg : (run 0x8120#16 (withV [(1, 1#8), (2, 0x9C#8)])).map (pcRegVf 1) = some (0x0202#16, 0x9C#8, 0x00#8) := by decide
theorem test_orReg : (run 0x8121#16 (withV [(1, 0xF0#8), (2, 0x0F#8), (15, 1#8)])).map (pcRegVf 1) = some (0x0202#16, 0xFF#8, 0x01#8) := by decide
theorem test_andReg : (run 0x8122#16 (withV [(1, 0xF0#8), (2, 0x3C#8), (15, 1#8)])).map (pcRegVf 1) = some (0x0202#16, 0x30#8, 0x01#8) := by decide
theorem test_xorReg : (run 0x8123#16 (withV [(1, 0xF0#8), (2, 0x3C#8), (15, 1#8)])).map (pcRegVf 1) = some (0x0202#16, 0xCC#8, 0x01#8) := by decide
/-- The source's example S2. -/
theorem test_addReg_carry : (run 0x8014#16 (withV [(0, 0xFF#8), (1, 1#8)])).map (pcRegVf 0) = some (0x0202#16, 0x00#8, 0x01#8) := by decide
/-- x = F: the result 0x02 is lost. -/
theorem test_addReg_flag_wins : (run 0x8F14#16 (withV [(1, 1#8), (15, 1#8)])).map (pcRegVf 15) = some (0x0202#16, 0x00#8, 0x00#8) := by decide
/-- The source's example S3. -/
theorem test_subReg_borrow : (run 0x8015#16 (withV [(0, 1#8), (1, 2#8)])).map (pcRegVf 0) = some (0x0202#16, 0xFF#8, 0x00#8) := by decide
/-- Strict comparison (D25). -/
theorem test_subReg_equal : (run 0x8015#16 (withV [(0, 5#8), (1, 5#8), (15, 1#8)])).map (pcRegVf 0) = some (0x0202#16, 0x00#8, 0x00#8) := by decide
/-- The source's example S5. -/
theorem test_shr : (run 0x8006#16 (withV [(0, 0x81#8)])).map (pcRegVf 0) = some (0x0202#16, 0x40#8, 0x01#8) := by decide
theorem test_shr_flag_wins : (run 0x8F06#16 (withV [(15, 2#8)])).map (pcRegVf 15) = some (0x0202#16, 0x00#8, 0x00#8) := by decide
/-- The flag tells the borrow (C9). -/
theorem test_subnReg_borrow : (run 0x8017#16 (withV [(0, 5#8), (1, 3#8)])).map (pcRegVf 0) = some (0x0202#16, 0xFE#8, 0x01#8) := by decide
theorem test_subnReg_no_borrow : (run 0x8017#16 (withV [(0, 3#8), (1, 5#8), (15, 1#8)])).map (pcRegVf 0) = some (0x0202#16, 0x02#8, 0x00#8) := by decide
/-- The source's example S4. -/
theorem test_shl : (run 0x800E#16 (withV [(0, 0x81#8)])).map (pcRegVf 0) = some (0x0202#16, 0x02#8, 0x01#8) := by decide
theorem test_shl_flag_wins : (run 0x8F0E#16 (withV [(15, 0xC1#8)])).map (pcRegVf 15) = some (0x0202#16, 0x01#8, 0x01#8) := by decide
/-- `rnd` given as the step's input. -/
theorem test_rnd : (run 0xC00F#16 (withInputs (withV [(0, 0xEE#8)]) 0#16 0xA7#8)).map (pcRegVf 0) = some (0x0202#16, 0x07#8, 0x00#8) := by decide

/-! #### Index register and memory (section 6) -/

theorem test_ldI : (run 0xA123#16 State.reset).map (fun t => (t.pc, t.index)) = some (0x0202#16, 0x0123#16) := by decide
theorem test_addI_wraps : (run 0xF01E#16 (withI 0xFFFF#16 [] [(0, 2#8)])).map (fun t => (t.index, reg t vf)) = some (0x0001#16, 0#8) := by decide
theorem test_ldF_low_nibble : (run 0xF029#16 (withV [(0, 0x1F#8)])).map State.index = some 0x004B#16 := by decide
/-- The source's example S10. -/
theorem test_ldB : (run 0xF033#16 (withI 0x0300#16 [] [(0, 0xEA#8)])).map (fun t => (readByte t 0x300, readByte t 0x301, readByte t 0x302)) =
    some (2#8, 3#8, 4#8) := by decide
theorem test_ldB_out_of_range : (run 0xF033#16 (withI 0x0FFE#16 [] [(0, 0x7B#8)])).map (fun t => (pcHalt t, readByte t 0xFFE)) =
    some ((0x0202#16, some ⟨.memoryOutOfRange, 0x0202#16, some 0xF033#16⟩), 0#8) := by decide
theorem test_storeRegs : (run 0xF255#16 (withI 0x0400#16 [] [(0, 0x11#8), (1, 0x22#8), (2, 0x33#8), (3, 0x44#8)])).map
    (fun t => ([readByte t 0x400, readByte t 0x401, readByte t 0x402, readByte t 0x403], t.index)) =
    some ([0x11#8, 0x22#8, 0x33#8, 0x00#8], 0x0400#16) := by decide
theorem test_storeRegs_atomic : (run 0xF155#16 (withI 0x0FFF#16 [] [(0, 0xAB#8), (1, 0xCD#8)])).map (fun t => (t.halt, readByte t 0xFFF)) =
    some (some ⟨.memoryOutOfRange, 0x0202#16, some 0xF155#16⟩, 0#8) := by decide
theorem test_loadRegs : (run 0xF265#16 (withI 0x0400#16 [0xDE#8, 0xAD#8, 0xBE#8, 0xEF#8] [])).map
    (fun t => ([reg t 0, reg t 1, reg t 2, reg t 3], t.index)) = some ([0xDE#8, 0xAD#8, 0xBE#8, 0x00#8], 0x0400#16) := by decide
theorem test_loadRegs_atomic : (run 0xF165#16 (withI 0x0FFF#16 [0x5A#8] [(0, 1#8), (1, 2#8)])).map (fun t => (t.pc, reg t 0)) =
    some (0x0202#16, 0x01#8) := by decide

/-! #### Display (section 7) -/

theorem test_cls : (run 0x00E0#16 (withPix [(0, 0), (63, 31)] (withV [(15, 1#8)]))).map
    (fun t => (pixel t 0 0, pixel t 63 31, reg t vf)) = some (false, false, 1#8) := by decide
/-- 0xA5 lights columns 0, 2, 5 and 7 of the sprite. -/
theorem test_drw_bit_order : (run 0xD011#16 (withI 0x0300#16 [0xA5#8] [(0, 10#8), (1, 5#8)])).map
    (fun t => ((List.range 8).map fun c => pixel t (10 + c) 5)) =
    some [true, false, true, false, false, true, false, true] := by decide
theorem test_drw_partial_collision : (run 0xD011#16 (withPix [(0, 0)] (withI 0x0300#16 [0xC0#8] []))).map
    (fun t => (pixel t 0 0, pixel t 1 0, reg t vf)) = some (false, true, 1#8) := by decide

/-! #### Placeholders (section 8) -/

theorem test_ldVxDT : (run 0xF007#16 (withV [(0, 0x55#8)])).map (pcRegVf 0) = some (0x0202#16, 0x00#8, 0x00#8) := by decide
/-- No wait and no key stored, with every key down (D28). -/
theorem test_ldVxK : (run 0xF00A#16 (withInputs (withV [(0, 0x55#8)]) 0xFFFF#16 0#8)).map (pcRegVf 0) = some (0x0202#16, 0x55#8, 0x00#8) := by decide
theorem test_ldDTVx : (run 0xF015#16 (withV [(0, 0x55#8)])).map (pcRegVf 0) = some (0x0202#16, 0x55#8, 0x00#8) := by decide
theorem test_ldSTVx : (run 0xF018#16 (withV [(0, 0x55#8)])).map (pcRegVf 0) = some (0x0202#16, 0x55#8, 0x00#8) := by decide

/-! #### The step (section 3) -/

theorem test_pc_out_of_range : (run 0x0000#16 (setPc State.reset 0x0FFF#16)).map pcHalt =
    some (0x0FFF#16, some ⟨.programCounterOutOfRange, 0x0FFF#16, none⟩) := by decide
theorem test_last_fetch_address : (run 0x6001#16 (setPc State.reset 0x0FFE#16)).map (fun t => (t.pc, reg t 0)) = some (0x1000#16, 1#8) := by decide
theorem test_odd_pc : (run 0x602A#16 (setPc State.reset 0x0203#16)).map (fun t => (t.pc, reg t 0)) = some (0x0205#16, 0x2A#8) := by decide
/-- The source's example S12. -/
theorem test_invalid_opcode : (run 0x5001#16 State.reset).map pcHalt = some (0x0202#16, some ⟨.invalidOpcode, 0x0202#16, some 0x5001#16⟩) := by decide

/-- What `step` answers, as far as a test can say it: `PC` and the halt latch. -/
def stepped (s : State) : Option (Word × Option HaltRecord) :=
  match step s with
  | .next t => some (pcHalt t)
  | _ => none

/-- The whole step, inputs sampled: a word placed by the host runs as the first instruction after reset. -/
theorem test_step_runs_placed_word : stepped (State.reset.withFetchWord 16 0x1ABC) = some (0x0ABC#16, none) := by decide

/-- From reset with nothing placed the first step meets 0x0000 (section 3, empty program). -/
theorem test_step_empty_program :
    stepped State.reset = some (0x0202#16, some ⟨.invalidOpcode, 0x0202#16, some 0x0000#16⟩) := by decide

/-- The font at reset: first row of glyph 0 and last row of glyph F (R52's table). -/
theorem test_font : fontTable.length = 80 ∧ readByte State.reset 0x000 = 0xF0#8 ∧ readByte State.reset 0x04F = 0x80#8 ∧
    readByte State.reset 0x050 = 0x00#8 := by decide

/-! ### Witnesses: for every statement with hypotheses, states and operands that meet them together; where a statement
has clauses, one at a bound of each -/

/-- A halted state. -/
def haltedState : State := setHalt State.reset (some ⟨.invalidOpcode, 0x0200#16, some 0#16⟩)

/-- A word placed at reset. -/
def placed (w : Word) : State := placeWord State.reset w

theorem witness_DecodeOfEncode : Instr.WellFormed (.drw 15 0 15) := by decide
theorem witness_EncodeOfDecode : decode 0x8A36#16 = .ok (.shr 10 3) := by decide
theorem witness_DecodeFollowsOpcodeMap : decode 0xFF65#16 = .ok (.loadRegs 15) ∧ (⟨0xF065, 0xF0FF⟩ : OpcodeRow) ∈ opcodeTable ∧
    (⟨0xF065, 0xF0FF⟩ : OpcodeRow).selects 0xFF65#16 := by decide
theorem witness_OpcodeRowsDisjoint : (⟨0x00E0, 0xFFFF⟩ : OpcodeRow) ∈ opcodeTable ∧ (⟨0x00E0, 0xFFFF⟩ : OpcodeRow).selects 0x00E0#16 := by decide
theorem witness_StepRunsDecodedInstruction : Running (placeWord (setPc State.reset 0x0FFE#16) 0x6001#16) ∧
    (placeWord (setPc State.reset 0x0FFE#16) 0x6001#16).pc.toNat < 0xFFF ∧
    decode (fetchWord (placeWord (setPc State.reset 0x0FFE#16) 0x6001#16)) = .ok (.ldImm 0 1#8) := by decide
theorem witness_PcOutOfRangeHalts : Running (setPc State.reset 0x0FFF#16) ∧ 0xFFF ≤ (setPc State.reset 0x0FFF#16).pc.toNat := by decide
theorem witness_IllegalWordHalts : Running (setPc State.reset 0x0FFE#16) ∧ (setPc State.reset 0x0FFE#16).pc.toNat < 0xFFF ∧
    ∀ row ∈ opcodeTable, ¬ row.selects (fetchWord (setPc State.reset 0x0FFE#16)) := by decide
theorem witness_StepStopsOnlyWhenHalted : ¬ Running haltedState ∧ Running State.reset := by decide
theorem witness_HaltsArePrecise_fetched : ∃ t h, step State.reset = .next t ∧ t.halt = some h ∧
    h.kind ≠ .programCounterOutOfRange := ⟨_, _, rfl, rfl, by decide⟩
theorem witness_HaltsArePrecise_pc : ∃ t h, step (setPc State.reset 0x0FFF#16) = .next t ∧ t.halt = some h ∧
    h.kind = .programCounterOutOfRange := ⟨_, _, rfl, rfl, rfl⟩
theorem witness_HaltConditions : ∃ t, step (placed 0x00EE#16) = .next t := ⟨_, rfl⟩
theorem witness_HaltConditions_sides :
    0xFFF ≤ (setPc State.reset 0x0FFF#16).pc.toNat ∧ decode (fetchWord State.reset) = .error .type0 ∧
    decode (fetchWord (placed 0x2200#16)) = .ok (.call 0x200#12) ∧ decode (fetchWord (placed 0x00EE#16)) = .ok .ret ∧
    decode (fetchWord (placed 0xFF55#16)) = .ok (.storeRegs 15) ∧ highestOffset (.storeRegs 15) = some 15 ∧
    0xFFF < (setIndex (placed 0xFF55#16) 0x0FF1#16).index.toNat + 15 := by decide
theorem witness_PcAfterEveryStep_runs : ∃ t, step (placed 0x1ABC#16) = .next t ∧ Running t ∧
    (placed 0x1ABC#16).pc.toNat < 0xFFF ∧ decode (fetchWord (placed 0x1ABC#16)) = .ok (.jp 0xABC#12) :=
  ⟨_, rfl, rfl, by decide, by decide⟩
theorem witness_PcAfterEveryStep_halts : ∃ t h, step State.reset = .next t ∧ t.halt = some h ∧
    h.kind ≠ .programCounterOutOfRange := ⟨_, _, rfl, rfl, by decide⟩
theorem witness_PcAfterEveryStep_pc : ∃ t h, step (setPc State.reset 0x0FFF#16) = .next t ∧ t.halt = some h ∧
    h.kind = .programCounterOutOfRange := ⟨_, _, rfl, rfl, rfl⟩
/-- The invariant at its bounds: a full stack of the largest pushed value, `PC` at 0x10FE, a byte listed at 0xFFF. -/
def boundState : State :=
  setMem (setPc (setStack State.reset (List.replicate 16 0x1000#16)) 0x10FE#16) [(0xFFF, 1#8)]
theorem boundState_memory : Memory.wf [(0xFFF, 1#8)] := by decide
theorem boundState_stack : ∀ a ∈ List.replicate 16 0x1000#16, 2 ≤ a.toNat ∧ a.toNat ≤ 0x1000 := by
  intro a h
  rw [List.eq_of_mem_replicate h]
  decide
theorem witness_StepKeepsInvariant : StateInv boundState := by
  refine ⟨boundState_memory, ?_, boundState_stack, ?_, ?_⟩
  · decide
  · decide
  · intro h e
    cases e
theorem witness_StepKeepsInvariant_steps :
    step boundState = .next (setHalt (hostInput boundState) (some ⟨.programCounterOutOfRange, 0x10FE#16, none⟩)) := rfl
theorem witness_EveryInstructionKeepsFrame : ∃ t u, exec (.storeRegs 15) State.reset = .next t ∧
    exec .ret State.reset = .next u ∧ ¬ Running u := ⟨_, _, rfl, rfl, by decide⟩
theorem witness_OnlyFlagWritersTouchVf_other : ∃ t, exec (.loadRegs 14) State.reset = .next t ∧
    writesFlag (.loadRegs 14) = false ∧ vf ∉ (writesOf State.reset (.loadRegs 14)).regs := ⟨_, rfl, rfl, by decide⟩
theorem witness_OnlyFlagWritersTouchVf_flag : ∃ t, exec (.addReg 15 15) State.reset = .next t ∧
    writesFlag (.addReg 15 15) = true ∧ Running t := ⟨_, rfl, rfl, rfl⟩
theorem witness_InputsReadOnlyWhereNamed_keys : (∃ t, exec (.rnd 0 1#8) State.reset = .next t) ∧
    ∀ x, Instr.rnd 0 1#8 ≠ .skp x ∧ Instr.rnd 0 1#8 ≠ .sknp x := ⟨⟨_, rfl⟩, by decide⟩
theorem witness_InputsReadOnlyWhereNamed_rnd : (∃ t, exec (.skp 0) State.reset = .next t) ∧
    ∀ x kk, Instr.skp 0 ≠ .rnd x kk := ⟨⟨_, rfl⟩, fun _ _ e => nomatch e⟩
theorem witness_ReturnPopsOrUnderflows : (setStack State.reset [0x0206#16, 0x0FFF#16]).stack = [0x0206#16] ++ [0x0FFF#16] ∧
    State.reset.stack = [] := by decide
theorem witness_CallPushesOrOverflows : (setStack State.reset (List.replicate 15 0x0202#16)).stack.length < 16 ∧
    (setStack State.reset (List.replicate 16 0x0202#16)).stack.length = 16 := by decide
theorem witness_CallThenReturn : (setStack State.reset (List.replicate 15 0x0202#16)).stack.length < 16 := by decide
theorem witness_SkipsOnRegisters : (0x1#4 : BitVec 4) ≠ 0#4 ∧ (0xF#4 : BitVec 4) ≠ 0#4 := by decide
theorem witness_flag_writers : (14 : Reg) ≠ vf := by decide
theorem witness_AddWithCarry : (0 : Reg) ≠ vf := by decide
theorem witness_SubtractWithFlag : (0 : Reg) ≠ vf := by decide
theorem witness_ShiftRightWithFlag : (0 : Reg) ≠ vf := by decide
theorem witness_SubtractReversedWithFlag : (0 : Reg) ≠ vf := by decide
theorem witness_ShiftLeftWithFlag : (0 : Reg) ≠ vf := by decide
theorem witness_DecimalDigitsStored : (setIndex State.reset 0x0FFD#16).index.toNat + 2 ≤ 0xFFF ∧
    (setIndex State.reset 0x0FFE#16).index.toNat + 2 > 0xFFF := by decide
theorem witness_RegistersStored : (setIndex State.reset 0x0FF0#16).index.toNat + (15 : Reg).val ≤ 0xFFF ∧
    (setIndex State.reset 0x0FF1#16).index.toNat + (15 : Reg).val > 0xFFF := by decide
theorem witness_RegistersLoaded : (setIndex State.reset 0x0FFF#16).index.toNat + (0 : Reg).val ≤ 0xFFF ∧
    (setIndex State.reset 0x1000#16).index.toNat + (0 : Reg).val > 0xFFF ∧ (0 : Reg) < 15 := by decide
theorem witness_StoreThenLoad : (setIndex State.reset 0x0FF8#16).index.toNat + (7 : Reg).val ≤ 0xFFF ∧ (7 : Reg) < 8 := by
  decide
theorem witness_StoredCodeIsFetched : 1 ≤ (1 : Reg).val ∧ (setIndex State.reset 0x0FFE#16).index.toNat + (1 : Reg).val ≤ 0xFFF := by
  decide
theorem witness_CanonicalMemoryIsUnique : Memory.wf [(0x300, 5#8), (0xFFF, 1#8)] := by decide
/-- No rows at any `I`, and fifteen rows ending at the last byte; one byte further is out of range. -/
theorem witness_DrawXorsSprite_range : ((0 : Nat) = 0 ∨ (setIndex State.reset 0xFFFF#16).index.toNat + (0 - 1) ≤ 0xFFF) ∧
    ((15 : Nat) = 0 ∨ (setIndex State.reset 0x0FF1#16).index.toNat + (15 - 1) ≤ 0xFFF) ∧
    (15 : Nat) ≠ 0 ∧ (setIndex State.reset 0x0FF2#16).index.toNat + (15 - 1) > 0xFFF ∧ (15 : Nat) ≤ 15 := by decide
/-- A lit pixel under a 1 bit at the corner (63, 31), and a sprite that meets none. -/
theorem witness_DrawXorsSprite_hit :
    pixel (withPix [(63, 31)] (withI 0x0300#16 [0x80#8] [(0, 63#8), (1, 31#8)])) 63 31 = true ∧
    spriteCovers (withPix [(63, 31)] (withI 0x0300#16 [0x80#8] [(0, 63#8), (1, 31#8)])) 63 31 1 63 31 = true := by decide
theorem witness_DrawXorsSprite_miss : ∀ px py, px < 64 → py < 32 → pixel State.reset px py = true →
    spriteCovers State.reset (reg State.reset 0).toNat (reg State.reset 1).toNat 1 px py = false := by
  intro px py _ _ h
  have : pixel State.reset px py = false := pixelOf_blankDisplay px py
  rw [this] at h
  cases h
theorem witness_OffscreenDrawDrawsNothing :
    ((1 : Nat) = 0 ∨ (withV [(0, 64#8), (1, 32#8)]).index.toNat + (1 - 1) ≤ 0xFFF) ∧
    64 ≤ (reg (withV [(0, 64#8)]) 0).toNat ∧ 32 ≤ (reg (withV [(1, 32#8)]) 1).toNat := by decide
theorem witness_DrawTwiceRestores : (0 : Reg) ≠ vf ∧ (14 : Reg) ≠ vf ∧
    ((15 : Nat) = 0 ∨ State.reset.index.toNat + (15 - 1) ≤ 0xFFF) := by decide
/-- The longest image, with its last byte at 0xFFE, and one byte more. -/
theorem witness_ResetLeavesItsValues : (List.replicate 0xDFF 1#8).length ≤ 0xDFF ∧
    0xDFE < (List.replicate 0xDFF 1#8).length ∧ 0x200 + (List.replicate 0xDFF 1#8).length ≤ 0xFFF ∧
    (List.replicate 0xE00 1#8).length > 0xDFF ∧ 79 < 80 := by
  simp only [List.length_replicate]; decide

end Sys2Proof.Tests
end

section
/-! SUPPORT. Frames: what each named update leaves unchanged, and how frames compose. -/

namespace Sys2Proof.Machine

variable {w : Writes} {s t u : State}

theorem Frame.reg_eq : Frame w s t → ∀ r : Reg, r ∉ w.regs → reg t r = reg s r := fun ⟨hr, _⟩ => hr
theorem Frame.pc_eq : Frame w s t → w.pc = false → t.pc = s.pc := fun ⟨_, _, hp, _⟩ => hp
theorem Frame.stack_eq : Frame w s t → w.stack = false → t.stack = s.stack := fun ⟨_, _, _, hs, _⟩ => hs
theorem Frame.halt_eq : Frame w s t → w.halt = false → t.halt = s.halt := fun ⟨_, _, _, _, _, hh, _⟩ => hh
theorem Frame.keys_eq : Frame w s t → t.keys = s.keys := fun ⟨_, _, _, _, _, _, _, hk, _⟩ => hk
theorem Frame.rnd_eq : Frame w s t → t.rnd = s.rnd := fun ⟨_, _, _, _, _, _, _, _, hr, _⟩ => hr

theorem Frame.refl (w : Writes) (s : State) : Frame w s s := by simp [Frame]

theorem Frame.trans (h : Frame w s t) (k : Frame w t u) : Frame w s u := by
  obtain ⟨hr, hi, hp, hs, hd, hh, hm, hk, hn, ht⟩ := h
  obtain ⟨kr, ki, kp, ks, kd, kh, km, kk, kn, kt⟩ := k
  exact ⟨fun r e => (kr r e).trans (hr r e), fun e => (ki e).trans (hi e), fun e => (kp e).trans (hp e),
    fun e => (ks e).trans (hs e), fun e px py => (kd e px py).trans (hd e px py), fun e => (kh e).trans (hh e),
    fun a e => (km a e).trans (hm a e), kk.trans hk, kn.trans hn, kt.trans ht⟩

theorem frame_setIndex (hw : w.index = true) (i : Word) : Frame w s (setIndex s i) := by simp [Frame, hw]
theorem frame_setPc (hw : w.pc = true) (p : Word) : Frame w s (setPc s p) := by simp [Frame, hw]
theorem frame_setStack (hw : w.stack = true) (l : List Word) : Frame w s (setStack s l) := by simp [Frame, hw]
theorem frame_setDisp (hw : w.disp = true) (d : Display) : Frame w s (setDisp s d) := by simp [Frame, hw]
theorem frame_setHalt (hw : w.halt = true) (r : Option HaltRecord) : Frame w s (setHalt s r) := by
  simp [Frame, hw]

theorem frame_setRegs {v : Vector Byte 16} (hv : ∀ r : Reg, r ∉ w.regs → v[r.val] = reg s r) :
    Frame w s (setRegs s v) := by simpa [Frame] using hv

theorem frame_setReg {r : Reg} (hr : r ∈ w.regs) (b : Byte) : Frame w s (setReg s r b) := by
  have hne : ∀ q : Reg, q ∉ w.regs → q ≠ r := fun q hq e => hq (e ▸ hr)
  simp +contextual [Frame, hne]

theorem frame_setRegFlag {x : Reg} (hx : x ∈ w.regs) (hf : vf ∈ w.regs) (a b : Byte) :
    Frame w s (setRegFlag s x a b) :=
  (frame_setReg hx a).trans (frame_setReg hf b)

/-- A block store stays inside the frame's range of addresses. -/
theorem frame_setMem_memWriteList {bs : List Byte} (hl : bs.length = w.memLen) :
    Frame w s (setMem s (memWriteList s.mem w.memFrom bs)) := by
  have hread : ∀ a, a < w.memFrom ∨ w.memFrom + w.memLen ≤ a →
      memRead (memWriteList s.mem w.memFrom bs) a = readByte s a := by
    intro a ha
    rw [memRead_memWriteList, if_neg (by omega)]
    rfl
  simpa [Frame] using hread

end Sys2Proof.Machine
end

section
/-! SUPPORT. What an instruction can do (spec/40_engine_step.md R91, spec/60_exceptions.md R178): it raises the one
halt its operands and the state call for, or it completes inside its frame. -/

namespace Sys2Proof.Machine

variable {s t : State} {i : Instr}

/-- The halt an instruction raises in a state, none where it completes (R170, R178). -/
def haltOf (s : State) : Instr → Option HaltKind
  | .ret => if s.stack = [] then some .stackUnderflow else none
  | .call _ => if stackFull s then some .stackOverflow else none
  | .drw _ _ n => if spriteInMemory s n then none else some .memoryOutOfRange
  | .ldB _ => if inMemory s 2 then none else some .memoryOutOfRange
  | .storeRegs x | .loadRegs x => if inMemory s x.val then none else some .memoryOutOfRange
  | _ => none

/-! ### The six instructions that may halt, where they complete -/

theorem exec_ret_of_completes (hc : haltOf s .ret = none) :
    ∃ l a, s.stack = l ++ [a] ∧ exec .ret s = .next (setPc (setStack s l) a) := by
  obtain hs | ⟨l, a, hs⟩ := s.stack.eq_nil_or_concat
  · simp [haltOf, hs] at hc
  · exact ⟨l, a, by simp [hs], by simp [exec, execRet, hs]⟩

theorem haltOf_call_eq_none {nnn : Addr12} : haltOf s (.call nnn) = none ↔ s.stack.length < 16 := by
  simp [haltOf, stackFull_iff]

theorem exec_call_of_completes {nnn : Addr12} (hc : haltOf s (.call nnn) = none) :
    exec (.call nnn) s = .next (setPc (push s s.pc) (zextAddr nnn)) :=
  if_neg (by simpa [haltOf] using hc)

theorem exec_drw_of_completes {x y : Reg} {n : Nat} (hc : haltOf s (.drw x y n) = none) :
    exec (.drw x y n) s =
      .next (setReg (setDisp s (drawnSprite s x y n).1) vf (flagByte (drawnSprite s x y n).2)) :=
  if_pos (by simpa [haltOf] using hc)

theorem exec_ldB_of_completes {x : Reg} (hc : haltOf s (.ldB x) = none) :
    inMemory s 2 = true ∧
      exec (.ldB x) s = .next (setMem s (memWriteList s.mem (effAddr s 0) (bcdDigits (reg s x)))) :=
  have hin : inMemory s 2 = true := by simpa [haltOf] using hc
  ⟨hin, if_pos hin⟩

theorem exec_storeRegs_of_completes {x : Reg} (hc : haltOf s (.storeRegs x) = none) :
    inMemory s x.val = true ∧
      exec (.storeRegs x) s = .next (setMem s (memWriteList s.mem (effAddr s 0) (regsUpTo s x))) :=
  have hin : inMemory s x.val = true := by simpa [haltOf] using hc
  ⟨hin, if_pos hin⟩

theorem exec_loadRegs_of_completes {x : Reg} (hc : haltOf s (.loadRegs x) = none) :
    exec (.loadRegs x) s = .next (setRegs s (loadedRegs s x)) :=
  if_pos (by simpa [haltOf] using hc)

/-! ### Halting -/

theorem exec_of_haltOf {k : HaltKind} (hk : haltOf s i = some k) :
    exec i s = raiseHalt k (some (encode i)) s := by
  cases i with
  | ret =>
    obtain ⟨hs, rfl⟩ : s.stack = [] ∧ .stackUnderflow = k := by simpa [haltOf] using hk
    simp [exec, execRet, hs]
  | call nnn =>
    obtain ⟨hf, rfl⟩ : stackFull s = true ∧ .stackOverflow = k := by simpa [haltOf] using hk
    exact if_pos hf
  | drw x y n =>
    obtain ⟨hm, rfl⟩ : spriteInMemory s n = false ∧ .memoryOutOfRange = k := by simpa [haltOf] using hk
    simp [exec, execDrw, hm]
  | ldB x =>
    obtain ⟨hm, rfl⟩ : inMemory s 2 = false ∧ .memoryOutOfRange = k := by simpa [haltOf] using hk
    simp [exec, execLdB, hm]
  | storeRegs x =>
    obtain ⟨hm, rfl⟩ : inMemory s x.val = false ∧ .memoryOutOfRange = k := by simpa [haltOf] using hk
    simp [exec, execStoreRegs, hm]
  | loadRegs x =>
    obtain ⟨hm, rfl⟩ : inMemory s x.val = false ∧ .memoryOutOfRange = k := by simpa [haltOf] using hk
    simp [exec, execLoadRegs, hm]
  | _ => cases hk

/-- A next state of `exec` is that of a halt or that of a completed instruction. -/
theorem exec_cases (h : exec i s = .next t) :
    haltOf s i = none ∨ ∃ k, haltOf s i = some k ∧ t = setHalt s (some ⟨k, s.pc, some (encode i)⟩) := by
  cases hk : haltOf s i with
  | none => exact .inl rfl
  | some k =>
    rw [exec_of_haltOf hk] at h
    cases h
    exact .inr ⟨k, rfl, rfl⟩

theorem mayHalt_of_haltOf {k : HaltKind} (hk : haltOf s i = some k) :
    i = .ret ∨ (∃ nnn, i = .call nnn) ∨ highestOffset i ≠ none := by
  cases i with
  | ret => exact .inl rfl
  | call nnn => exact .inr (.inl ⟨nnn, rfl⟩)
  | drw x y n =>
    have hn : n ≠ 0 := by rintro rfl; cases hk
    exact .inr (.inr (by simp [highestOffset, hn]))
  | ldB _ | storeRegs _ | loadRegs _ => exact .inr (.inr nofun)
  | _ => cases hk

/-- `PC` is tested before the fetch only, so no instruction reports it (R174, D1). -/
theorem haltOf_ne_programCounterOutOfRange : haltOf s i ≠ some .programCounterOutOfRange := by
  cases i with
  | ret | call _ | drw _ _ _ | ldB _ | storeRegs _ | loadRegs _ => unfold haltOf; split <;> simp
  | _ => simp [haltOf]

/-! ### Completing -/

theorem exec_frame (hc : haltOf s i = none) (h : exec i s = .next t) : Frame (writesOf s i) s t := by
  cases i with
  | cls => cases h; exact frame_setDisp rfl _
  | ret =>
    obtain ⟨l, a, -, he⟩ := exec_ret_of_completes hc
    cases he.symm.trans h
    exact (frame_setStack rfl _).trans (frame_setPc rfl _)
  | call nnn =>
    cases (exec_call_of_completes hc).symm.trans h
    exact (frame_setStack rfl _).trans (frame_setPc rfl _)
  | jp _ | jpV0 _ | seImm _ _ | sneImm _ _ | seReg _ _ | sneReg _ _ | skp _ | sknp _ =>
    cases h; exact frame_setPc rfl _
  | ldImm _ _ | addImm _ _ | ldReg _ _ | orReg _ _ | andReg _ _ | xorReg _ _ | rnd _ _ | ldVxDT _ =>
    cases h; exact frame_setReg (by simp [writesOf]) _
  | addReg _ _ | subReg _ _ | shr _ _ | subnReg _ _ | shl _ _ =>
    cases h; exact frame_setRegFlag (by simp [writesOf]) (by simp [writesOf]) _ _
  | ldI _ | addI _ | ldF _ => cases h; exact frame_setIndex rfl _
  | drw x y n =>
    cases (exec_drw_of_completes hc).symm.trans h
    exact (frame_setDisp rfl _).trans (frame_setReg (by simp [writesOf]) _)
  | ldVxK _ | ldDTVx _ | ldSTVx _ => cases h; exact .refl _ _
  | ldB x =>
    obtain ⟨-, he⟩ := exec_ldB_of_completes hc
    cases he.symm.trans h
    exact frame_setMem_memWriteList (w := writesOf s (.ldB x)) (bcdDigits_length _)
  | storeRegs x =>
    obtain ⟨-, he⟩ := exec_storeRegs_of_completes hc
    cases he.symm.trans h
    exact frame_setMem_memWriteList (w := writesOf s (.storeRegs x)) (regsUpTo_length s x)
  | loadRegs x =>
    cases (exec_loadRegs_of_completes hc).symm.trans h
    refine frame_setRegs fun r hr => ?_
    have hxr : ¬ r ≤ x := by simpa [writesOf] using hr
    rw [loadedRegs_get, if_neg hxr]

theorem writesOf_halt (s : State) (i : Instr) : (writesOf s i).halt = false := by cases i <;> rfl

theorem exec_keeps_memory_wf (hc : haltOf s i = none) (h : exec i s = .next t) (hm : Memory.wf s.mem) :
    Memory.wf t.mem := by
  cases i with
  | ldB x =>
    obtain ⟨hin, he⟩ := exec_ldB_of_completes hc
    cases he.symm.trans h
    have hlast := (inMemory_iff s 2).1 hin
    refine memWriteList_wf _ _ _ hm ?_
    simp only [bcdDigits_length, effAddr, Config.memSize]
    omega
  | storeRegs x =>
    obtain ⟨hin, he⟩ := exec_storeRegs_of_completes hc
    cases he.symm.trans h
    have hlast := (inMemory_iff s x.val).1 hin
    refine memWriteList_wf _ _ _ hm ?_
    simp only [regsUpTo_length, effAddr, Config.memSize]
    omega
  | ret =>
    obtain ⟨l, a, -, he⟩ := exec_ret_of_completes hc
    cases he.symm.trans h
    exact hm
  | call nnn => cases (exec_call_of_completes hc).symm.trans h; exact hm
  | drw x y n => cases (exec_drw_of_completes hc).symm.trans h; exact hm
  | loadRegs x => cases (exec_loadRegs_of_completes hc).symm.trans h; exact hm
  | _ => cases h; exact hm

/-- Settles O16: a halting instruction writes the latch alone, a completing one keeps to its write set. -/
theorem everyInstructionKeepsFrame : Obligations.EveryInstructionKeepsFrame := by
  intro i s t h
  obtain hc | ⟨k, hk, rfl⟩ := exec_cases h
  · exact .inl (exec_frame hc h)
  · exact .inr ⟨mayHalt_of_haltOf hk, frame_setHalt rfl _, nofun⟩

end Sys2Proof.Machine
end

section
/-! SUPPORT. The flag (spec/10_state.md R21): who writes `VF`, and with what. -/

namespace Sys2Proof.Machine

variable {s t : State} {i : Instr}

theorem flagByte_zero_or_one (c : Bool) : flagByte c = 0#8 ∨ flagByte c = 1#8 := by cases c <;> simp [flagByte]

/-- Each of the six flag writers writes `VF` last, so a flag is what remains there (R22). -/
theorem exec_leaves_flag (hc : haltOf s i = none) (h : exec i s = .next t) (hi : writesFlag i = true) :
    ∃ c, reg t vf = flagByte c := by
  cases i with
  | addReg _ _ | subReg _ _ | shr _ _ | subnReg _ _ | shl _ _ =>
    cases h; exact ⟨_, by rw [reg_setRegFlag, if_pos rfl]; rfl⟩
  | drw x y n =>
    cases (exec_drw_of_completes hc).symm.trans h
    exact ⟨_, by rw [reg_setReg, if_pos rfl]⟩
  | _ => cases hi

/-- Settles O17: `VF` outside the write set by the frame, the flag of the six writers by `exec_leaves_flag`. -/
theorem onlyFlagWritersTouchVf : Obligations.OnlyFlagWritersTouchVf := by
  intro i s t h
  obtain hc | ⟨k, hk, rfl⟩ := exec_cases h
  · refine ⟨fun _ hv => (exec_frame hc h).reg_eq vf hv, fun hi _ => ?_⟩
    obtain ⟨c, hf⟩ := exec_leaves_flag hc h hi
    exact hf ▸ flagByte_zero_or_one c
  · exact ⟨fun _ _ => rfl, fun _ hrun => nomatch hrun⟩

end Sys2Proof.Machine
end

section
/-! SUPPORT. The inputs of a step (R31, R32, R97): a meaning that does not read an input commutes with its change. -/

namespace Sys2Proof.Machine

variable {s t : State} {i : Instr} {keys : Word} {rnd : Byte}

theorem haltOf_withInputs : haltOf (withInputs s keys rnd) i = haltOf s i := by cases i <;> rfl

theorem exec_withInputs (hk : keys = s.keys ∨ ∀ x, i ≠ .skp x ∧ i ≠ .sknp x)
    (hr : rnd = s.rnd ∨ ∀ x kk, i ≠ .rnd x kk) (h : exec i s = .next t) :
    exec i (withInputs s keys rnd) = .next (withInputs t keys rnd) := by
  obtain hc | ⟨k, hh, rfl⟩ := exec_cases h
  · have hc' : haltOf (withInputs s keys rnd) i = none := haltOf_withInputs.trans hc
    cases i with
    | ret =>
      obtain ⟨l, a, hs, he⟩ := exec_ret_of_completes hc
      cases he.symm.trans h
      obtain ⟨l', a', hs', he'⟩ := exec_ret_of_completes hc'
      obtain ⟨rfl, rfl⟩ := List.append_singleton_inj.1 (hs'.symm.trans hs)
      exact he'
    | call nnn =>
      cases (exec_call_of_completes hc).symm.trans h
      exact exec_call_of_completes hc'
    | drw x y n =>
      cases (exec_drw_of_completes hc).symm.trans h
      exact exec_drw_of_completes hc'
    | ldB x =>
      cases (exec_ldB_of_completes hc).2.symm.trans h
      exact (exec_ldB_of_completes hc').2
    | storeRegs x =>
      cases (exec_storeRegs_of_completes hc).2.symm.trans h
      exact (exec_storeRegs_of_completes hc').2
    | loadRegs x =>
      cases (exec_loadRegs_of_completes hc).symm.trans h
      exact exec_loadRegs_of_completes hc'
    | skp x =>
      obtain rfl | hne := hk
      · cases h; rfl
      · exact absurd rfl (hne x).1
    | sknp x =>
      obtain rfl | hne := hk
      · cases h; rfl
      · exact absurd rfl (hne x).2
    | rnd x kk =>
      obtain rfl | hne := hr
      · cases h; rfl
      · exact absurd rfl (hne x kk)
    | _ => cases h; rfl
  · exact exec_of_haltOf (haltOf_withInputs.trans hh)

/-- No instruction changes the inputs of its step (R97). -/
theorem exec_keeps_inputs (h : exec i s = .next t) : t.keys = s.keys ∧ t.rnd = s.rnd := by
  obtain hf | ⟨-, hf, -⟩ := everyInstructionKeepsFrame i s t h
  · exact ⟨hf.keys_eq, hf.rnd_eq⟩
  · exact ⟨hf.keys_eq, hf.rnd_eq⟩

/-- Settles O18: `exec_withInputs` with one of the two inputs kept. -/
theorem inputsReadOnlyWhereNamed : Obligations.InputsReadOnlyWhereNamed := by
  intro i s t keys rnd h
  obtain ⟨hkeys, hrnd⟩ := exec_keeps_inputs h
  rw [hkeys, hrnd]
  exact ⟨fun hi => exec_withInputs (.inr hi) (.inl rfl) h, fun hi => exec_withInputs (.inl rfl) (.inr hi) h⟩

end Sys2Proof.Machine
end

section
/-! SUPPORT. `PC` after a step (spec/10_state.md R25, spec/40_engine_step.md R92), and the invariant every step
keeps (R27, R29, R179). -/

namespace Sys2Proof.Machine

variable {s t : State} {i : Instr}

/-- Below the limit the pre-advance does not wrap (R27). -/
theorem pc_add_two_toNat (hpc : s.pc.toNat < 0xFFF) : (s.pc + 2#16).toNat = s.pc.toNat + 2 := by
  rw [BitVec.toNat_add, BitVec.toNat_ofNat]
  omega

theorem skipIf_pc_toNat (hpc : s.pc.toNat < 0xFFF) (c : Bool) :
    (skipIf c (advance (hostInput s))).pc.toNat = if c then s.pc.toNat + 4 else s.pc.toNat + 2 := by
  have h2 := pc_add_two_toNat hpc
  cases c
  · exact h2
  · simp only [skipIf_pc, advance_pc, hostInput_pc, if_true, BitVec.toNat_add, BitVec.toNat_ofNat]
    omega

theorem zextAddr_toNat (a : Addr12) : (zextAddr a).toNat = a.toNat := by
  simp only [zextAddr, BitVec.truncate_eq_setWidth, BitVec.toNat_setWidth]
  omega

theorem zextByte_toNat (b : Byte) : (zextByte b).toNat = b.toNat := by
  simp only [zextByte, BitVec.truncate_eq_setWidth, BitVec.toNat_setWidth]
  omega

/-- R25's table for an instruction that completes. -/
theorem pcAfter_of_completes (hpc : s.pc.toNat < 0xFFF) (hc : haltOf (advance (hostInput s)) i = none)
    (h : exec i (advance (hostInput s)) = .next t) : pcAfter s t i := by
  cases i with
  | jp nnn => cases h; exact zextAddr_toNat nnn
  | call nnn =>
    cases (exec_call_of_completes hc).symm.trans h
    exact ⟨zextAddr_toNat nnn, _, pc_add_two_toNat hpc, rfl⟩
  | ret =>
    obtain ⟨l, a, hs, he⟩ := exec_ret_of_completes hc
    cases he.symm.trans h
    exact hs
  | jpV0 nnn =>
    cases h
    simp only [pcAfter, setPc_pc, BitVec.toNat_add, zextAddr_toNat, zextByte_toNat, reg_advance, reg_hostInput]
    omega
  | seImm _ _ | sneImm _ _ | seReg _ _ | sneReg _ _ =>
    cases h
    exact (skipIf_pc_toNat hpc _).trans (by simp)
  | skp x =>
    cases h
    exact (skipIf_pc_toNat hpc _).trans (if_congr (keyPressed_iff _ x) rfl rfl)
  | sknp x =>
    cases h
    have hnot : (!keyPressed (advance (hostInput s)) x) = true ↔ ¬ keyPressed (advance (hostInput s)) x = true := by
      simp
    exact (skipIf_pc_toNat hpc _).trans
      ((if_congr (hnot.trans (keyPressed_iff _ x).not) rfl rfl).trans (ite_not _ _ _))
  | _ => exact (congrArg BitVec.toNat ((exec_frame hc h).pc_eq rfl)).trans (pc_add_two_toNat hpc)

/-- Settles O13: the three ways a step answers a next state. -/
theorem pcAfterEveryStep : Obligations.PcAfterEveryStep := by
  intro s t h
  obtain ⟨hrun, ⟨hpc, rfl⟩ | ⟨hpc, ⟨e, he⟩, rfl⟩ | ⟨hpc, i, hi, hx⟩⟩ := step_cases h
  · refine ⟨fun _ hlt => absurd hpc (by omega), fun r hr hk => ?_, fun _ _ _ => rfl⟩
    cases hr
    exact absurd rfl hk
  · refine ⟨fun i _ hi => ?_, fun _ _ _ => pc_add_two_toNat hpc, fun r hr hk => ?_⟩
    · rw [he] at hi; cases hi
    · cases hr; cases hk
  · obtain hc | ⟨k, hk, rfl⟩ := exec_cases hx
    · have ht : t.halt = none := ((exec_frame hc hx).halt_eq (writesOf_halt _ i)).trans hrun
      refine ⟨fun j _ hj _ => ?_, fun r hr => absurd (ht.symm.trans hr) nofun,
        fun r hr => absurd (ht.symm.trans hr) nofun⟩
      cases hi.symm.trans hj
      exact pcAfter_of_completes hpc hc hx
    · refine ⟨fun _ _ _ hr => absurd hr nofun, fun _ _ _ => pc_add_two_toNat hpc, fun r hr hkind => ?_⟩
      cases hr
      cases hkind
      exact absurd hk haltOf_ne_programCounterOutOfRange

/-! ### The invariant -/

/-- The bound of R27: the largest target is `0xFFF + 0xFF`, of `Bnnn`. -/
theorem pc_le_of_pcAfter (hstack : ∀ a ∈ s.stack, a.toNat ≤ 0x1000) (hpc : s.pc.toNat < 0xFFF)
    (h : pcAfter s t i) : t.pc.toNat ≤ 0x10FE := by
  cases i with
  | jp nnn =>
    have htarget : t.pc.toNat = nnn.toNat := h
    omega
  | call nnn =>
    obtain ⟨htarget, -⟩ := h
    omega
  | ret =>
    have hpop : s.stack = t.stack ++ [t.pc] := h
    have hle := hstack t.pc (by simp [hpop])
    omega
  | jpV0 nnn =>
    have hsum : t.pc.toNat = nnn.toNat + (reg s 0).toNat := h
    omega
  | seImm _ _ | sneImm _ _ | seReg _ _ | sneReg _ _ | skp _ | sknp _ =>
    simp only [pcAfter] at h
    split at h <;> omega
  | _ =>
    have hnext : t.pc.toNat = s.pc.toNat + 2 := h
    omega

/-- What a completing instruction does to the call stack: nothing, a pop, or a push of `PC` below the capacity (R29). -/
theorem stack_of_completes (hc : haltOf s i = none) (h : exec i s = .next t) :
    t.stack = s.stack ∨ (∃ a, s.stack = t.stack ++ [a]) ∨ (s.stack.length < 16 ∧ t.stack = s.stack ++ [s.pc]) := by
  cases i with
  | ret =>
    obtain ⟨l, a, hs, he⟩ := exec_ret_of_completes hc
    cases he.symm.trans h
    exact .inr (.inl ⟨a, hs⟩)
  | call nnn =>
    cases (exec_call_of_completes hc).symm.trans h
    exact .inr (.inr ⟨haltOf_call_eq_none.1 hc, rfl⟩)
  | _ => exact .inl ((exec_frame hc h).stack_eq rfl)

theorem stackInv_of_completes (hc : haltOf s i = none) (h : exec i s = .next t) (hlen : s.stack.length ≤ 16)
    (hstack : ∀ a ∈ s.stack, 2 ≤ a.toNat ∧ a.toNat ≤ 0x1000) (hpc : 2 ≤ s.pc.toNat ∧ s.pc.toNat ≤ 0x1000) :
    t.stack.length ≤ 16 ∧ ∀ a ∈ t.stack, 2 ≤ a.toNat ∧ a.toNat ≤ 0x1000 := by
  obtain heq | ⟨a, hpop⟩ | ⟨hlt, hpush⟩ := stack_of_completes hc h
  · rw [heq]
    exact ⟨hlen, hstack⟩
  · rw [hpop] at hlen hstack
    rw [List.length_append] at hlen
    exact ⟨by omega, fun b hb => hstack b (List.mem_append_left _ hb)⟩
  · rw [hpush]
    refine ⟨by simpa using hlt, fun b hb => ?_⟩
    obtain hb | hb := List.mem_append.1 hb
    · exact hstack b hb
    · exact List.mem_singleton.1 hb ▸ hpc

theorem stateInv_dispatchHalt (hs : StateInv s) (hpc : s.pc.toNat < 0xFFF) (k : HaltKind) (op : Option Word) :
    StateInv (setHalt (advance (hostInput s)) (some ⟨k, s.pc + 2#16, op⟩)) := by
  obtain ⟨hmem, hlen, hstack, -, -⟩ := hs
  have hadv : (s.pc + 2#16).toNat ≤ 0x10FE := by rw [pc_add_two_toNat hpc]; omega
  exact ⟨hmem, hlen, hstack, hadv, fun r hr => by cases hr; rfl⟩

theorem stateInv_of_completes (hs : StateInv s) (hrun : s.halt = none) (hpc : s.pc.toNat < 0xFFF)
    (hc : haltOf (advance (hostInput s)) i = none) (h : exec i (advance (hostInput s)) = .next t) : StateInv t := by
  obtain ⟨hmem, hlen, hstack, -, -⟩ := hs
  have hadv : 2 ≤ (s.pc + 2#16).toNat ∧ (s.pc + 2#16).toNat ≤ 0x1000 := by rw [pc_add_two_toNat hpc]; omega
  obtain ⟨hlen', hstack'⟩ := stackInv_of_completes hc h hlen hstack hadv
  have hpc' := pc_le_of_pcAfter (fun a ha => (hstack a ha).2) hpc (pcAfter_of_completes hpc hc h)
  have hhalt : t.halt = none := ((exec_frame hc h).halt_eq (writesOf_halt _ i)).trans hrun
  exact ⟨exec_keeps_memory_wf hc h hmem, hlen', hstack', hpc', fun r hr => nomatch hhalt.symm.trans hr⟩

/-- Settles O14: the halts keep everything but the latch (and the advanced `PC`); the completing instructions are
`stateInv_of_completes`. -/
theorem stepKeepsInvariant : Obligations.StepKeepsInvariant := by
  intro s t hs h
  obtain ⟨hrun, ⟨-, rfl⟩ | ⟨hpc, -, rfl⟩ | ⟨hpc, i, -, hx⟩⟩ := step_cases h
  · obtain ⟨hmem, hlen, hstack, hle, -⟩ := hs
    exact ⟨hmem, hlen, hstack, hle, fun r hr => by cases hr; rfl⟩
  · exact stateInv_dispatchHalt hs hpc _ _
  · obtain hc | ⟨k, -, rfl⟩ := exec_cases hx
    · exact stateInv_of_completes hs hrun hpc hc hx
    · exact stateInv_dispatchHalt hs hpc _ _

/-- Settles O15, field by field of R40. -/
theorem resetMeetsInvariant : Obligations.ResetMeetsInvariant :=
  ⟨reset_memory_wf, Nat.zero_le 16, nofun, by decide, nofun⟩

end Sys2Proof.Machine
end

section
/-! SUPPORT. The contents of memory after reset (spec/70_reset_and_hazards.md R200, R202). -/

namespace Sys2Proof.Machine

/-- The program lies over the font, the font over the initial memory (R200). -/
theorem memRead_resetMemory (font : Vector Byte Config.fontSize) (initRam : Nat → Byte) (program : List Byte) (a : Nat) :
    memRead (resetMemory font initRam program) a =
      if 0x200 ≤ a ∧ a < 0x200 + program.length then program.getD (a - 0x200) 0#8
      else if a < 80 then font.toList.getD a 0#8
      else if a < 0x1000 then initRam a
      else unlistedByte a := by
  have hinit : a < 0x1000 → ((List.range Config.memSize).map initRam).getD a 0#8 = initRam a := by
    intro ha
    rw [List.getD_eq_getElem _ _ (by simpa using ha), List.getElem_map, List.getElem_range]
  simp only [resetMemory, memRead_memWriteList, memRead, Vector.length_toList, List.length_map, List.length_range,
    Nat.zero_le, true_and, Nat.zero_add, Nat.sub_zero]
  exact ite_congr rfl (fun _ => rfl) fun _ => ite_congr rfl (fun _ => rfl) fun _ => ite_congr rfl hinit fun _ => rfl

theorem resetWith_eq_some {font : Vector Byte Config.fontSize} {initRam : Nat → Byte} {program : List Byte}
    (h : program.length ≤ 0xDFF) :
    State.resetWith font initRam program = some (setMem State.reset (resetMemory font initRam program)) :=
  if_pos h

/-- Settles O46: the fields are those of `State.reset`, the bytes those of `memRead_resetMemory`. -/
theorem resetLeavesItsValues : Obligations.ResetLeavesItsValues := by
  intro font initRam program
  refine ⟨fun hlen => ⟨_, resetWith_eq_some hlen, rfl, ?_, rfl, rfl, ?_, rfl, rfl, ?_, ?_, ?_⟩, fun hlen => ?_⟩
  · intro r
    simp [reg, State.reset]
  · exact pixelOf_blankDisplay
  · intro a ha
    rw [readByte_setMem, memRead_resetMemory, if_neg (by omega), if_pos ha, List.getD_eq_getElem _ _ (by simpa using ha)]
    exact Vector.getElem_toList _
  · intro j hj
    rw [readByte_setMem, memRead_resetMemory, if_pos (by omega), Nat.add_sub_cancel_left, List.getD_eq_getElem _ _ hj]
  · intro a h80 hsize hout
    rw [readByte_setMem, memRead_resetMemory, if_neg (by omega), if_neg (by omega), if_pos hsize]
  · exact if_neg (Nat.not_le.2 hlen)

end Sys2Proof.Machine
end

section
/-! SUPPORT. Memory as the step sees it (spec/20_memory.md): a stored block read back by a fetch (R66, R204), and the
step that fetches nothing (R59, R174). -/

namespace Sys2Proof.Machine

variable {s : State} {x q : Reg}

/-! ### The range test before the fetch -/

theorem step_of_pc_out_of_range (hrun : Running s) (hpc : 0xFFF ≤ s.pc.toNat) :
    step s = .next (setHalt (hostInput s) (some ⟨.programCounterOutOfRange, s.pc, none⟩)) := by
  have hengine : step s = engineStep (hostInput s) := by rw [step, hrun]
  have hout : pcOutOfRange (hostInput s) = true := (pcOutOfRange_iff (hostInput s)).2 hpc
  rw [hengine, engineStep, if_pos hout]
  rfl

/-- Settles O8: the step is the range test's halt, and a halt writes the latch alone. -/
theorem pcOutOfRangeHalts : Obligations.PcOutOfRangeHalts := fun _ hrun hpc =>
  ⟨_, step_of_pc_out_of_range hrun hpc, rfl, frame_setHalt rfl _⟩

/-! ### A fetch of stored bytes -/

theorem haltOf_storeRegs_eq_none : haltOf s (.storeRegs x) = none ↔ s.index.toNat + x.val ≤ 0xFFF := by
  simp [haltOf, ← inMemory_iff]

/-- `Fx55` leaves `Vq` at offset `q` of its block (R144). -/
theorem memRead_memWriteList_regsUpTo (m : Memory) (a : Nat) (hq : q ≤ x) :
    memRead (memWriteList m a (regsUpTo s x)) (a + q.val) = reg s q := by
  have hlt : q.val < (regsUpTo s x).length := regsUpTo_length s x ▸ Nat.lt_succ_of_le hq
  have hin : a ≤ a + q.val ∧ a + q.val < a + (regsUpTo s x).length := by omega
  rw [memRead_memWriteList, if_pos hin, Nat.add_sub_cancel_left, regsUpTo_getD s x q hq]

theorem fetchWord_setPc (t : State) (p : Word) :
    fetchWord (setPc t p) = wordOfBytes (readByte t p.toNat) (readByte t (p.toNat + 1)) := rfl

/-- Settles O39: the fetch at `I` reads offsets 0 and 1 of the block, where `V0` and `V1` stand. -/
theorem storedCodeIsFetched : Obligations.StoredCodeIsFetched := by
  intro x s hx hlast
  obtain ⟨-, hexec⟩ := exec_storeRegs_of_completes (haltOf_storeRegs_eq_none.2 hlast)
  have hhigh := memRead_memWriteList_regsUpTo (s := s) s.mem s.index.toNat (Fin.zero_le x)
  have hlow := memRead_memWriteList_regsUpTo (s := s) (q := 1) s.mem s.index.toNat hx
  refine ⟨_, hexec, ?_⟩
  rw [fetchWord_setPc, readByte_setMem, readByte_setMem]
  exact congrArg₂ wordOfBytes hhigh hlow

end Sys2Proof.Machine
end

section
/-! SUPPORT. The round trip of decoder and encoder, and the opcode map (spec/30_encoding.md R76 to R87): a word is the
format of its own fields, so a decoded word is the word of its instruction, and a row's word is the word of an
instruction of that row. -/

namespace Sys2Proof

variable {w : Word} {i : Instr} {t n : BitVec 4} {kk : Byte}

/-! ### A word is the format of its own fields (R77, R78) -/

theorem regBits_regOfBits (b : BitVec 4) : regBits (regOfBits b) = b := by simp [regBits, regOfBits]

/-- The type and `x` of a word are its high byte. -/
theorem type_append_x (w : Word) : w.extractLsb' 12 4 ++ w.extractLsb' 8 4 = w.extractLsb' 8 8 :=
  BitVec.extractLsb'_append_extractLsb'_eq_extractLsb' rfl

theorem formatA_of_fields (ht : fieldType w = t) : formatA t (fieldNNN w) = w := by
  rw [← ht, formatA, fieldType, fieldNNN]
  exact (BitVec.extractLsb'_append_extractLsb'_eq_extractLsb' rfl).trans (extract_all w)

theorem formatI_of_fields (ht : fieldType w = t) (hk : fieldKK w = kk) : formatI t (fieldX w) kk = w := by
  rw [← ht, ← hk, formatI, fieldType, fieldX, regBits_regOfBits, type_append_x, fieldKK]
  exact (BitVec.extractLsb'_append_extractLsb'_eq_extractLsb' rfl).trans (extract_all w)

theorem formatR_of_fields (ht : fieldType w = t) (hn : fieldN w = n) : formatR t (fieldX w) (fieldY w) n = w := by
  have hy : w.extractLsb' 8 8 ++ w.extractLsb' 4 4 = w.extractLsb' 4 12 :=
    BitVec.extractLsb'_append_extractLsb'_eq_extractLsb' rfl
  rw [← ht, ← hn, formatR, fieldType, fieldX, fieldY, regBits_regOfBits, regBits_regOfBits, type_append_x, hy, fieldN]
  exact (BitVec.extractLsb'_append_extractLsb'_eq_extractLsb' rfl).trans (extract_all w)

/-- The sprite height read from a word is well-formed, and encodes back to the field (R155). -/
theorem drw_of_fields (ht : fieldType w = 0xD#4) :
    (Instr.drw (fieldX w) (fieldY w) (fieldN w).toNat).WellFormed ∧
      encode (.drw (fieldX w) (fieldY w) (fieldN w).toNat) = w :=
  ⟨decide_eq_true (Nat.le_of_lt_succ (fieldN w).isLt), formatR_of_fields ht (by simp)⟩

/-! ### Encode, then decode -/

/-- Settles O1: the decoder branches on the fields of the word, and each format's fields read back. -/
theorem decodeOfEncode : Obligations.DecodeOfEncode := by
  intro i hwf
  cases i with
  | cls | ret => rfl
  | jp _ | call _ | ldI _ | jpV0 _ => simp [encode, decode, fieldType_formatA, fieldNNN_formatA]
  | seImm _ _ | sneImm _ _ | ldImm _ _ | addImm _ _ | rnd _ _ =>
    simp [encode, decode, fieldType_formatI, fieldX_formatI, fieldKK_formatI]
  | seReg _ _ | sneReg _ _ =>
    simp [encode, decode, fieldType_formatR, fieldX_formatR, fieldY_formatR, fieldN_formatR]
  | ldReg _ _ | orReg _ _ | andReg _ _ | xorReg _ _ | addReg _ _ | subReg _ _ | shr _ _ | subnReg _ _ | shl _ _ =>
    simp [encode, decode, decodeType8, fieldType_formatR, fieldX_formatR, fieldY_formatR, fieldN_formatR]
  | drw x y n =>
    have hn : n ≤ 15 := of_decide_eq_true hwf
    have hmod : n % 16 = n := Nat.mod_eq_of_lt (by omega)
    simp [encode, decode, fieldType_formatR, fieldX_formatR, fieldY_formatR, fieldN_formatR, hmod]
  | skp _ | sknp _ => simp [encode, decode, decodeTypeE, fieldType_formatI, fieldX_formatI, fieldKK_formatI]
  | ldVxDT _ | ldVxK _ | ldDTVx _ | ldSTVx _ | addI _ | ldF _ | ldB _ | storeRegs _ | loadRegs _ =>
    simp [encode, decode, decodeTypeF, fieldType_formatI, fieldX_formatI, fieldKK_formatI]

/-! ### Decode, then encode -/

theorem encode_of_decodeType0 (h : decodeType0 w = .ok i) : i.WellFormed ∧ encode i = w := by
  unfold decodeType0 at h
  split at h
  · next hw => cases h; exact ⟨rfl, hw.symm⟩
  · split at h
    · next hw => cases h; exact ⟨rfl, hw.symm⟩
    · cases h

theorem encode_of_decodeType8 (ht : fieldType w = 0x8#4) (h : decodeType8 w = .ok i) :
    i.WellFormed ∧ encode i = w := by
  unfold decodeType8 at h
  split at h <;> cases h
  all_goals
    next hn => exact ⟨rfl, formatR_of_fields ht (BitVec.eq_of_toNat_eq hn)⟩

theorem encode_of_decodeTypeE (ht : fieldType w = 0xE#4) (h : decodeTypeE w = .ok i) :
    i.WellFormed ∧ encode i = w := by
  unfold decodeTypeE at h
  split at h <;> cases h
  all_goals
    next hk => exact ⟨rfl, formatI_of_fields ht (BitVec.eq_of_toNat_eq hk)⟩

theorem encode_of_decodeTypeF (ht : fieldType w = 0xF#4) (h : decodeTypeF w = .ok i) :
    i.WellFormed ∧ encode i = w := by
  unfold decodeTypeF at h
  split at h <;> cases h
  all_goals
    next hk => exact ⟨rfl, formatI_of_fields ht (BitVec.eq_of_toNat_eq hk)⟩

/-- Settles O2, branch by branch of the decoder: the tests passed give the fixed fields of the word. -/
theorem encodeOfDecode : Obligations.EncodeOfDecode := by
  intro w i h
  unfold decode at h
  split at h
  case h_1 => exact encode_of_decodeType0 h
  case h_2 ht | h_3 ht | h_11 ht | h_12 ht =>
    cases h
    exact ⟨rfl, formatA_of_fields (BitVec.eq_of_toNat_eq ht)⟩
  case h_4 ht | h_5 ht | h_7 ht | h_8 ht | h_13 ht =>
    cases h
    exact ⟨rfl, formatI_of_fields (BitVec.eq_of_toNat_eq ht) rfl⟩
  case h_6 ht | h_10 ht =>
    split at h <;> cases h
    next hn => exact ⟨rfl, formatR_of_fields (BitVec.eq_of_toNat_eq ht) hn⟩
  case h_9 ht => exact encode_of_decodeType8 (BitVec.eq_of_toNat_eq ht) h
  case h_14 ht =>
    cases h
    exact drw_of_fields (BitVec.eq_of_toNat_eq ht)
  case h_15 ht => exact encode_of_decodeTypeE (BitVec.eq_of_toNat_eq ht) h
  case h_16 =>
    have hlt := (fieldType w).isLt
    have ht : (fieldType w).toNat = 15 := by
      simp only [imp_false] at *
      omega
    exact encode_of_decodeTypeF (BitVec.eq_of_toNat_eq ht) h

/-! ### The opcode map (R81) -/

theorem row_selects_encode (i : Instr) : i.row.selects (encode i) := by
  cases i with
  | cls | ret => rfl
  | jp _ | call _ | ldI _ | jpV0 _ => exact formatA_selects _ _
  | seImm _ _ | sneImm _ _ | ldImm _ _ | addImm _ _ | rnd _ _ => exact formatI_selects_type _ _ _
  | drw _ _ _ => exact formatR_selects_type _ _ _ _
  | skp _ | sknp _ | ldVxDT _ | ldVxK _ | ldDTVx _ | ldSTVx _ | addI _ | ldF _ | ldB _ | storeRegs _ | loadRegs _ =>
    exact formatI_selects _ _ _
  | _ => exact formatR_selects _ _ _ _

theorem row_mem_opcodeTable (i : Instr) : i.row ∈ opcodeTable := by
  cases i <;> simp [Instr.row, opcodeTable]

/-! What a mask of R81 says of the fields: the masked word is the same format with the operands zero. -/

theorem fieldType_of_selects (h : w &&& 0xF000 = t ++ 0#12) : fieldType w = t := by
  rw [← formatA_of_fields (w := w) rfl, formatA_selects] at h
  exact (BitVec.append_left_inj _).1 h

theorem formatI_of_selects (h : w &&& 0xF0FF = t ++ 0#4 ++ kk) : formatI t (fieldX w) kk = w := by
  rw [← formatI_of_fields (w := w) rfl rfl, formatI_selects] at h
  have hzero : formatI (fieldType w) 0 (fieldKK w) = formatI t 0 kk := h
  refine formatI_of_fields ?_ ?_
  · simpa only [fieldType_formatI] using congrArg fieldType hzero
  · simpa only [fieldKK_formatI] using congrArg fieldKK hzero

theorem formatR_of_selects (h : w &&& 0xF00F = t ++ 0#4 ++ 0#4 ++ n) : formatR t (fieldX w) (fieldY w) n = w := by
  rw [← formatR_of_fields (w := w) rfl rfl, formatR_selects] at h
  have hzero : formatR (fieldType w) 0 0 (fieldN w) = formatR t 0 0 n := h
  refine formatR_of_fields ?_ ?_
  · simpa only [fieldType_formatR] using congrArg fieldType hzero
  · simpa only [fieldN_formatR] using congrArg fieldN hzero


/-- Every word of a row is the word of an instruction of that row: the one with the operands read from the word. -/
theorem exists_encode_of_row_selects (w : Word) : ∀ row ∈ opcodeTable, row.selects w →
    ∃ i : Instr, i.row = row ∧ i.WellFormed ∧ encode i = w := by
  simp only [opcodeTable, List.cons_append, List.nil_append, List.forall_mem_cons]
  exact ⟨
    fun h => ⟨.cls, rfl, rfl, h.symm.trans (and_ones w)⟩,
    fun h => ⟨.ret, rfl, rfl, h.symm.trans (and_ones w)⟩,
    fun h => ⟨.jp (fieldNNN w), rfl, rfl, formatA_of_fields (fieldType_of_selects h)⟩,
    fun h => ⟨.call (fieldNNN w), rfl, rfl, formatA_of_fields (fieldType_of_selects h)⟩,
    fun h => ⟨.seImm (fieldX w) (fieldKK w), rfl, rfl, formatI_of_fields (fieldType_of_selects h) rfl⟩,
    fun h => ⟨.sneImm (fieldX w) (fieldKK w), rfl, rfl, formatI_of_fields (fieldType_of_selects h) rfl⟩,
    fun h => ⟨.seReg (fieldX w) (fieldY w), rfl, rfl, formatR_of_selects h⟩,
    fun h => ⟨.ldImm (fieldX w) (fieldKK w), rfl, rfl, formatI_of_fields (fieldType_of_selects h) rfl⟩,
    fun h => ⟨.addImm (fieldX w) (fieldKK w), rfl, rfl, formatI_of_fields (fieldType_of_selects h) rfl⟩,
    fun h => ⟨.ldReg (fieldX w) (fieldY w), rfl, rfl, formatR_of_selects h⟩,
    fun h => ⟨.orReg (fieldX w) (fieldY w), rfl, rfl, formatR_of_selects h⟩,
    fun h => ⟨.andReg (fieldX w) (fieldY w), rfl, rfl, formatR_of_selects h⟩,
    fun h => ⟨.xorReg (fieldX w) (fieldY w), rfl, rfl, formatR_of_selects h⟩,
    fun h => ⟨.addReg (fieldX w) (fieldY w), rfl, rfl, formatR_of_selects h⟩,
    fun h => ⟨.subReg (fieldX w) (fieldY w), rfl, rfl, formatR_of_selects h⟩,
    fun h => ⟨.shr (fieldX w) (fieldY w), rfl, rfl, formatR_of_selects h⟩,
    fun h => ⟨.subnReg (fieldX w) (fieldY w), rfl, rfl, formatR_of_selects h⟩,
    fun h => ⟨.shl (fieldX w) (fieldY w), rfl, rfl, formatR_of_selects h⟩,
    fun h => ⟨.sneReg (fieldX w) (fieldY w), rfl, rfl, formatR_of_selects h⟩,
    fun h => ⟨.ldI (fieldNNN w), rfl, rfl, formatA_of_fields (fieldType_of_selects h)⟩,
    fun h => ⟨.jpV0 (fieldNNN w), rfl, rfl, formatA_of_fields (fieldType_of_selects h)⟩,
    fun h => ⟨.rnd (fieldX w) (fieldKK w), rfl, rfl, formatI_of_fields (fieldType_of_selects h) rfl⟩,
    fun h => ⟨.drw (fieldX w) (fieldY w) (fieldN w).toNat, rfl, drw_of_fields (fieldType_of_selects h)⟩,
    fun h => ⟨.skp (fieldX w), rfl, rfl, formatI_of_selects h⟩,
    fun h => ⟨.sknp (fieldX w), rfl, rfl, formatI_of_selects h⟩,
    fun h => ⟨.ldVxDT (fieldX w), rfl, rfl, formatI_of_selects h⟩,
    fun h => ⟨.ldVxK (fieldX w), rfl, rfl, formatI_of_selects h⟩,
    fun h => ⟨.ldDTVx (fieldX w), rfl, rfl, formatI_of_selects h⟩,
    fun h => ⟨.ldSTVx (fieldX w), rfl, rfl, formatI_of_selects h⟩,
    fun h => ⟨.addI (fieldX w), rfl, rfl, formatI_of_selects h⟩,
    fun h => ⟨.ldF (fieldX w), rfl, rfl, formatI_of_selects h⟩,
    fun h => ⟨.ldB (fieldX w), rfl, rfl, formatI_of_selects h⟩,
    fun h => ⟨.storeRegs (fieldX w), rfl, rfl, formatI_of_selects h⟩,
    fun h => ⟨.loadRegs (fieldX w), rfl, rfl, formatI_of_selects h⟩,
    List.forall_mem_nil _⟩

/-- Settles O3: a decoded word is the word of its instruction (O2), which selects the row; a word of a row is the word
of an instruction of the row, which decodes to it (O1). -/
theorem decodeFollowsOpcodeMap : Obligations.DecodeFollowsOpcodeMap := by
  refine ⟨fun w i h => ⟨row_mem_opcodeTable i, ?_⟩, fun w row hrow hsel => ?_⟩
  · obtain ⟨-, rfl⟩ := encodeOfDecode w i h
    exact row_selects_encode i
  · obtain ⟨i, hi, hwf, rfl⟩ := exists_encode_of_row_selects w row hrow hsel
    exact ⟨i, decodeOfEncode i hwf, hi⟩

/-- Settles O4: a word of two rows would decode to an instruction of each (O3), and it decodes to one. -/
theorem opcodeRowsDisjoint : Obligations.OpcodeRowsDisjoint := by
  refine ⟨rfl, by decide, fun w row row' hrow hrow' hsel hsel' => ?_⟩
  obtain ⟨i, hi, rfl⟩ := decodeFollowsOpcodeMap.2 w row hrow hsel
  obtain ⟨j, hj, rfl⟩ := decodeFollowsOpcodeMap.2 w row' hrow' hsel'
  cases hi.symm.trans hj
  rfl

/-- Settles O5, word by word: the legal ones as the words of their instructions (O1), the illegal ones by evaluation. -/
theorem decodeKnownWords : Obligations.DecodeKnownWords :=
  ⟨decodeOfEncode .cls rfl, decodeOfEncode (.call 0xABC#12) rfl, decodeOfEncode (.shr 10 3) rfl,
    decodeOfEncode (.drw 1 2 15) rfl, decodeOfEncode (.sknp 15) rfl, decodeOfEncode (.loadRegs 2) rfl, rfl, rfl, rfl⟩

end Sys2Proof
end

section
/-! SUPPORT. The fetch (spec/30_encoding.md R76) and the step that meets an illegal word (R82, R91, R173). -/

namespace Sys2Proof.Machine

variable {s : State} {e : DecodeReject}

/-! ### The fetched word -/

theorem wordOfBytes_toNat (hi lo : Byte) : (wordOfBytes hi lo).toNat = hi.toNat * 256 + lo.toNat := by
  rw [wordOfBytes, BitVec.toNat_append, ← Nat.shiftLeft_add_eq_or_of_lt lo.isLt, Nat.shiftLeft_eq]

theorem highByte_wordOfBytes (hi lo : Byte) : highByte (wordOfBytes hi lo) = hi :=
  (extract_append_left hi lo 0 8).trans (extract_all hi)

theorem lowByte_wordOfBytes (hi lo : Byte) : lowByte (wordOfBytes hi lo) = lo :=
  (extract_append_right hi lo 0 8 (Nat.le_refl 8)).trans (extract_all lo)

/-- Settles O6: the fetched word is the word of the two bytes at `PC` and `PC + 1`. -/
theorem fetchIsBigEndian : Obligations.FetchIsBigEndian := fun _ =>
  ⟨wordOfBytes_toNat _ _, highByte_wordOfBytes _ _, lowByte_wordOfBytes _ _⟩

/-! ### An illegal word -/

/-- A word of no row is rejected (R82). -/
theorem decode_error_of_no_row {w : Word} (h : ∀ row ∈ opcodeTable, ¬ row.selects w) : ∃ e, decode w = .error e := by
  cases hd : decode w with
  | error e => exact ⟨e, rfl⟩
  | ok i =>
    obtain ⟨hrow, hsel⟩ := decodeFollowsOpcodeMap.1 w i hd
    exact absurd hsel (h i.row hrow)

theorem step_of_decode_error (hrun : Running s) (hpc : s.pc.toNat < 0xFFF) (he : decode (fetchWord s) = .error e) :
    step s = .next (setHalt (advance (hostInput s)) (some ⟨.invalidOpcode, s.pc + 2#16, some (fetchWord s)⟩)) := by
  have hengine : step s = engineStep (hostInput s) := by rw [step, hrun]
  have hin : ¬ pcOutOfRange (hostInput s) = true := fun hout =>
    absurd ((pcOutOfRange_iff (hostInput s)).1 hout) (Nat.not_le.2 hpc)
  rw [hengine, engineStep, if_neg hin, fetchWord_hostInput, he]
  rfl

/-- Settles O9: the word is rejected, so the step is the pre-advance and the halt. -/
theorem illegalWordHalts : Obligations.IllegalWordHalts := by
  intro s hrun hpc hrow
  obtain ⟨e, he⟩ := decode_error_of_no_row hrow
  exact ⟨_, step_of_decode_error hrun hpc he, rfl, pc_add_two_toNat hpc,
    (frame_setPc rfl _).trans (frame_setHalt rfl _)⟩

end Sys2Proof.Machine
end

section
/-! SUPPORT. The engine step (spec/40_engine_step.md R91, R96): the step that runs an instruction, that a running
machine always steps, what a step that halts leaves, and a call with its return. -/

namespace Sys2Proof.Machine

variable {s t : State} {i : Instr}

/-! ### The step that halts -/

/-- A step that halts either fetched nothing and wrote the latch alone, or made the pre-advance and wrote the latch,
recording the advanced `PC` and the fetched word (R179, D12, D14). -/
theorem step_halt_cases {h : HaltRecord} (hstep : step s = .next t) (hhalt : t.halt = some h) :
    (0xFFF ≤ s.pc.toNat ∧ h = ⟨.programCounterOutOfRange, s.pc, none⟩ ∧ t = setHalt (hostInput s) (some h)) ∨
    (s.pc.toNat < 0xFFF ∧ h.kind ≠ .programCounterOutOfRange ∧ h = ⟨h.kind, s.pc + 2#16, some (fetchWord s)⟩ ∧
      t = setHalt (advance (hostInput s)) (some h)) := by
  obtain ⟨hrun, ⟨hpc, rfl⟩ | ⟨hpc, -, rfl⟩ | ⟨hpc, i, hi, hx⟩⟩ := step_cases hstep
  · cases hhalt
    exact .inl ⟨hpc, rfl, rfl⟩
  · cases hhalt
    exact .inr ⟨hpc, nofun, rfl, rfl⟩
  · obtain hc | ⟨k, hk, rfl⟩ := exec_cases hx
    · have hnone : t.halt = none := ((exec_frame hc hx).halt_eq (writesOf_halt _ i)).trans hrun
      exact absurd (hnone.symm.trans hhalt) nofun
    · cases hhalt
      have hword : encode i = fetchWord s := (encodeOfDecode _ i hi).2
      have hkind : k ≠ .programCounterOutOfRange := fun e => haltOf_ne_programCounterOutOfRange (e ▸ hk)
      exact .inr ⟨hpc, hkind, hword ▸ rfl, rfl⟩

/-- Settles O11: both forms of a halting step write at most the latch and the pre-advance. -/
theorem haltsArePrecise : Obligations.HaltsArePrecise := by
  intro s t h hstep hhalt
  obtain ⟨-, rfl, rfl⟩ | ⟨hpc, hkind, hrec, rfl⟩ := step_halt_cases hstep hhalt
  · exact ⟨rfl, frame_setHalt rfl _, fun _ => ⟨rfl, rfl⟩, fun hne => absurd rfl hne⟩
  · exact ⟨congrArg HaltRecord.pc hrec, (frame_setPc rfl _).trans (frame_setHalt rfl _), fun he => absurd he hkind,
      fun _ => ⟨congrArg HaltRecord.opcode hrec, pc_add_two_toNat hpc⟩⟩

/-! ### A call and its return -/

/-- `00EE` on a stack with a newest entry pops it into `PC` (R100). -/
theorem exec_ret_of_stack_append {l : List Word} {a : Word} (hs : s.stack = l ++ [a]) :
    exec .ret s = .next (setPc (setStack s l) a) := by
  simp [exec, execRet, hs]

/-- Settles O21: the return pops what the call pushed, the advanced `PC`. -/
theorem callThenReturn : Obligations.CallThenReturn := by
  intro nnn s p hdepth
  have hcall := exec_call_of_completes (nnn := nnn) (haltOf_call_eq_none.2 hdepth)
  exact ⟨_, _, hcall, exec_ret_of_stack_append rfl, rfl, rfl, Frame.refl {} s⟩

/-! ### The step that runs an instruction -/

theorem step_of_decode_ok (hrun : Running s) (hpc : s.pc.toNat < 0xFFF) (hi : decode (fetchWord s) = .ok i) :
    step s = exec i (advance (hostInput s)) := by
  have hengine : step s = engineStep (hostInput s) := by rw [step, hrun]
  have hin : ¬ pcOutOfRange (hostInput s) = true := fun hout =>
    absurd ((pcOutOfRange_iff (hostInput s)).1 hout) (Nat.not_le.2 hpc)
  rw [hengine, engineStep, if_neg hin, fetchWord_hostInput, hi]

/-- Settles O7: the state of the instruction is the one with the inputs sampled and `PC` advanced. -/
theorem stepRunsDecodedInstruction : Obligations.StepRunsDecodedInstruction := fun _ _ hrun hpc hi =>
  ⟨_, step_of_decode_ok hrun hpc hi, pc_add_two_toNat hpc, rfl, rfl, rfl, rfl, rfl, rfl, rfl, rfl, rfl⟩

/-! ### When there is a step -/

/-- No instruction faults or is refused: it completes or records a halt. -/
theorem exists_exec_eq_next (i : Instr) (s : State) : ∃ t, exec i s = .next t := by
  cases hc : haltOf s i with
  | some k => exact ⟨_, exec_of_haltOf hc⟩
  | none =>
    cases i with
    | ret =>
      obtain ⟨l, a, -, he⟩ := exec_ret_of_completes hc
      exact ⟨_, he⟩
    | call nnn => exact ⟨_, exec_call_of_completes hc⟩
    | drw x y n => exact ⟨_, exec_drw_of_completes hc⟩
    | ldB x => exact ⟨_, (exec_ldB_of_completes hc).2⟩
    | storeRegs x => exact ⟨_, (exec_storeRegs_of_completes hc).2⟩
    | loadRegs x => exact ⟨_, exec_loadRegs_of_completes hc⟩
    | _ => exact ⟨_, rfl⟩

theorem step_of_halted (h : ¬ Running s) : step s = .fault .halted := by
  obtain ⟨r, hr⟩ := Option.ne_none_iff_exists'.1 h
  rw [step, hr]

/-- Settles O10: out of range, an illegal word and an instruction each give the running machine a next state. -/
theorem stepStopsOnlyWhenHalted : Obligations.StepStopsOnlyWhenHalted := by
  refine fun s => ⟨step_of_halted, fun hrun => ?_⟩
  by_cases hpc : s.pc.toNat < 0xFFF
  · cases hd : decode (fetchWord s) with
    | error e => exact ⟨_, step_of_decode_error hrun hpc hd⟩
    | ok i =>
      obtain ⟨t, ht⟩ := exists_exec_eq_next i (advance (hostInput s))
      exact ⟨t, (step_of_decode_ok hrun hpc hd).trans ht⟩
  · exact ⟨_, step_of_pc_out_of_range hrun (Nat.not_lt.1 hpc)⟩

end Sys2Proof.Machine
end

section
/-! SUPPORT. Control transfer (spec/41_control_flow.md R100 to R109): each word by its encoding (O1), each target as a
value of `PC`. -/

namespace Sys2Proof.Machine

variable {s : State} {x y : Reg}

/-! ### Call and return -/

/-- Settles O19: with a newest entry the return pops it, on an empty stack it is the halt of `haltOf`. -/
theorem returnPopsOrUnderflows : Obligations.ReturnPopsOrUnderflows := by
  refine ⟨decodeOfEncode .ret rfl, fun s => ⟨fun l a hs => ?_, fun hs => ?_⟩⟩
  · exact ⟨_, exec_ret_of_stack_append hs, rfl, rfl, (frame_setStack rfl l).trans (frame_setPc rfl a)⟩
  · exact ⟨_, exec_of_haltOf (if_pos hs), rfl, frame_setHalt rfl _⟩

/-- Settles O20: below depth 16 the call completes, at depth 16 it is the halt of `haltOf`. -/
theorem callPushesOrOverflows : Obligations.CallPushesOrOverflows := by
  refine fun nnn s => ⟨decodeOfEncode (.call nnn) rfl, fun hdepth => ?_, fun hdepth => ?_⟩
  · exact ⟨_, exec_call_of_completes (haltOf_call_eq_none.2 hdepth), rfl, zextAddr_toNat nnn,
      (frame_setStack rfl _).trans (frame_setPc rfl _)⟩
  · have hfull : stackFull s = true := (stackFull_iff s).2 hdepth.ge
    exact ⟨_, exec_of_haltOf (if_pos hfull), rfl, frame_setHalt rfl _⟩

/-! ### Jumps -/

/-- The sum of `Bnnn` is at most `0xFFF + 0xFF`, so 16 bits hold it (R107). -/
theorem zextAddr_add_zextByte_toNat (nnn : Addr12) (b : Byte) :
    (zextAddr nnn + zextByte b).toNat = nnn.toNat + b.toNat := by
  rw [BitVec.toNat_add, zextAddr_toNat, zextByte_toNat]
  omega

/-- Settles O22: both jumps write `PC` alone. -/
theorem jumpsAssignTheirTarget : Obligations.JumpsAssignTheirTarget := fun nnn s =>
  ⟨⟨decodeOfEncode (.jp nnn) rfl, _, rfl, zextAddr_toNat nnn, frame_setPc rfl _⟩,
    decodeOfEncode (.jpV0 nnn) rfl, _, rfl, zextAddr_add_zextByte_toNat nnn (reg s 0), frame_setPc rfl _⟩

/-! ### Skips -/

/-- What `3xkk`, `5xy0` and `Ex9E` share: a skip on the condition `c` of the model, where the rule names `p`. -/
theorem skipIf_spec {c : Bool} {p : Prop} [Decidable p] (hc : c = true ↔ p) :
    (skipIf c s).pc = (if p then s.pc + 2#16 else s.pc) ∧ Frame { pc := true } s (skipIf c s) :=
  ⟨if_congr hc rfl rfl, frame_setPc rfl _⟩

/-- What `4xkk`, `9xy0` and `ExA1` share: the complement of the skip above. -/
theorem skipIf_not_spec {c : Bool} {p : Prop} [Decidable p] (hc : c = true ↔ p) :
    (skipIf (!c) s).pc = (if p then s.pc else s.pc + 2#16) ∧ Frame { pc := true } s (skipIf (!c) s) := by
  have hnot : (!c) = true ↔ ¬ p := by rw [Bool.not_eq_true', ← Bool.not_eq_true, hc]
  exact ⟨(if_congr hnot rfl rfl).trans (ite_not _ _ _), frame_setPc rfl _⟩

/-- Settles O23: both words compare by the same equality. -/
theorem skipsOnImmediate : Obligations.SkipsOnImmediate := fun x kk _ =>
  ⟨⟨decodeOfEncode (.seImm x kk) rfl, _, rfl, skipIf_spec beq_iff_eq⟩,
    decodeOfEncode (.sneImm x kk) rfl, _, rfl, skipIf_not_spec beq_iff_eq⟩

/-- A low nibble other than 0 is no `5xy0` (R82, R105). -/
theorem decode_type5_error {n : BitVec 4} (hn : n ≠ 0#4) : decode (formatR 0x5#4 x y n) = .error .type5 := by
  simp [decode, fieldType_formatR, fieldN_formatR, hn]

/-- A low nibble other than 0 is no `9xy0` (R82, R106). -/
theorem decode_type9_error {n : BitVec 4} (hn : n ≠ 0#4) : decode (formatR 0x9#4 x y n) = .error .type9 := by
  simp [decode, fieldType_formatR, fieldN_formatR, hn]

/-- Settles O24: the skips as in O23 on two registers, and the words of no row of types 5 and 9. -/
theorem skipsOnRegisters : Obligations.SkipsOnRegisters := fun x y _ =>
  ⟨⟨decodeOfEncode (.seReg x y) rfl, _, rfl, skipIf_spec beq_iff_eq⟩,
    ⟨decodeOfEncode (.sneReg x y) rfl, _, rfl, skipIf_not_spec beq_iff_eq⟩,
    fun _ hn => ⟨decode_type5_error hn, decode_type9_error hn⟩⟩

/-- Settles O25: a key is pressed by `keyPressed_iff`, which holds the bound of D6. -/
theorem skipsOnKey : Obligations.SkipsOnKey := fun x s =>
  ⟨⟨decodeOfEncode (.skp x) rfl, _, rfl, skipIf_spec (keyPressed_iff s x)⟩,
    decodeOfEncode (.sknp x) rfl, _, rfl, skipIf_not_spec (keyPressed_iff s x)⟩

end Sys2Proof.Machine
end

section
/-! SUPPORT. The arithmetic and logic instructions (spec/42_alu.md R120 to R131): each word by its encoding (O1), each
completes in a `setReg`, or in a `setRegFlag` whose flag is written last (R22). -/

namespace Sys2Proof.Machine

variable {s : State} {x : Reg} {b : Byte}

/-! ### Instructions that write one register -/

/-- A data write leaves its value in `Vx` and nothing else changed. -/
theorem setReg_spec : reg (setReg s x b) x = b ∧ Frame { regs := [x] } s (setReg s x b) :=
  ⟨(reg_setReg s x x b).trans (if_pos rfl), frame_setReg (List.mem_singleton_self x) b⟩

/-- The same with the value as a number. -/
theorem setReg_toNat_spec {n : Nat} (hn : b.toNat = n) :
    (reg (setReg s x b) x).toNat = n ∧ Frame { regs := [x] } s (setReg s x b) :=
  setReg_spec.imp_left fun hval => (congrArg BitVec.toNat hval).trans hn

/-- The same with the value bit by bit. -/
theorem setReg_bits_spec {f : Nat → Bool} (hf : ∀ j, b.getLsbD j = f j) :
    (∀ j, (reg (setReg s x b) x).getLsbD j = f j) ∧ Frame { regs := [x] } s (setReg s x b) :=
  setReg_spec.imp_left fun hval j => (congrArg (BitVec.getLsbD · j) hval).trans (hf j)

/-- Settles O26: `6xkk` writes the immediate, `7xkk` the 8-bit sum. -/
theorem immediateForms : Obligations.ImmediateForms := fun x kk s =>
  ⟨⟨decodeOfEncode (.ldImm x kk) rfl, _, rfl, setReg_spec⟩,
    decodeOfEncode (.addImm x kk) rfl, _, rfl, setReg_toNat_spec (BitVec.toNat_add (reg s x) kk)⟩

/-- Settles O27: the copy as a value, the three operations bit by bit. -/
theorem moveAndLogic : Obligations.MoveAndLogic := fun x y _ =>
  ⟨⟨decodeOfEncode (.ldReg x y) rfl, _, rfl, setReg_spec⟩,
    ⟨decodeOfEncode (.orReg x y) rfl, _, rfl, setReg_bits_spec fun _ => BitVec.getLsbD_or⟩,
    ⟨decodeOfEncode (.andReg x y) rfl, _, rfl, setReg_bits_spec fun _ => BitVec.getLsbD_and⟩,
    decodeOfEncode (.xorReg x y) rfl, _, rfl, setReg_bits_spec fun _ => BitVec.getLsbD_xor⟩

/-- Settles O33: the bits of `rnd & kk`. -/
theorem randomIsMasked : Obligations.RandomIsMasked := fun x kk _ =>
  ⟨decodeOfEncode (.rnd x kk) rfl, _, rfl, setReg_bits_spec fun _ => BitVec.getLsbD_and⟩

/-! ### The flags in numbers (R21) -/

theorem flagByte_toNat (c : Bool) : (flagByte c).toNat = if c then 1 else 0 := by cases c <;> rfl

theorem flagByte_decide_toNat (p : Prop) [Decidable p] : (flagByte (decide p)).toNat = if p then 1 else 0 :=
  (flagByte_toNat _).trans (if_congr decide_eq_true_iff rfl rfl)

theorem lsbFlag_toNat (a : Byte) : (lsbFlag a).toNat = a.toNat % 2 := by
  rw [lsbFlag, flagByte_toNat, BitVec.getLsbD, Nat.testBit_zero, if_congr decide_eq_true_iff rfl rfl]
  split <;> omega

theorem msbFlag_toNat (a : Byte) : (msbFlag a).toNat = a.toNat / 128 := by
  have hbit : a.getLsbD 7 = decide (128 ≤ a.toNat) := BitVec.msb_eq_decide a
  have hlt : a.toNat < 256 := a.isLt
  rw [msbFlag, hbit, flagByte_decide_toNat]
  split <;> omega

/-! ### Instructions that write `Vx` and the flag -/

/-- What the five share: the data result in `Vx`, unless that is `VF`, and the flag in `VF` for every `x` (R22). -/
theorem setRegFlag_spec {result flag : Byte} {n f : Nat} (hn : result.toNat = n) (hf : flag.toNat = f) :
    (x ≠ vf → (reg (setRegFlag s x result flag) x).toNat = n) ∧
      (reg (setRegFlag s x result flag) vf).toNat = f ∧
      Frame { regs := [x, vf] } s (setRegFlag s x result flag) := by
  refine ⟨fun hx => ?_, ?_, frame_setRegFlag (by simp) (by simp) _ _⟩
  · rw [reg_setRegFlag, if_neg hx, if_pos rfl, hn]
  · rw [reg_setRegFlag, if_pos rfl, hf]

/-- The 8-bit difference, with the 256 that keeps the natural subtraction from stopping at 0. -/
theorem byte_sub_toNat (a b : Byte) : (a - b).toNat = (a.toNat + 256 - b.toNat) % 256 := by
  rw [BitVec.toNat_sub]
  omega

theorem byte_shiftRight_one_toNat (a : Byte) : (a >>> 1).toNat = a.toNat / 2 := by
  rw [BitVec.toNat_ushiftRight, Nat.shiftRight_eq_div_pow]

theorem byte_shiftLeft_one_toNat (a : Byte) : (a <<< 1).toNat = a.toNat * 2 % 256 := by
  rw [BitVec.toNat_shiftLeft, Nat.shiftLeft_eq]

/-- Settles O28: the 8-bit sum, and the carry of the sum in numbers. -/
theorem addWithCarry : Obligations.AddWithCarry := fun x y s =>
  ⟨decodeOfEncode (.addReg x y) rfl, _, rfl,
    setRegFlag_spec (BitVec.toNat_add (reg s x) (reg s y)) (flagByte_decide_toNat _)⟩

/-- Settles O29: the difference `Vx - Vy`, and the comparison of the old values. -/
theorem subtractWithFlag : Obligations.SubtractWithFlag := fun x y s =>
  ⟨decodeOfEncode (.subReg x y) rfl, _, rfl,
    setRegFlag_spec (byte_sub_toNat (reg s x) (reg s y)) (flagByte_decide_toNat _)⟩

/-- Settles O30: the shift halves, and the flag is the remainder. -/
theorem shiftRightWithFlag : Obligations.ShiftRightWithFlag := fun x y s =>
  ⟨decodeOfEncode (.shr x y) rfl, _, rfl,
    setRegFlag_spec (byte_shiftRight_one_toNat (reg s x)) (lsbFlag_toNat (reg s x))⟩

/-- Settles O31: the difference `Vy - Vx`, with the flag of O29. -/
theorem subtractReversedWithFlag : Obligations.SubtractReversedWithFlag := fun x y s =>
  ⟨decodeOfEncode (.subnReg x y) rfl, _, rfl,
    setRegFlag_spec (byte_sub_toNat (reg s y) (reg s x)) (flagByte_decide_toNat _)⟩

/-- Settles O32: the shift doubles modulo 256, and the flag is the bit shifted out. -/
theorem shiftLeftWithFlag : Obligations.ShiftLeftWithFlag := fun x y s =>
  ⟨decodeOfEncode (.shl x y) rfl, _, rfl,
    setRegFlag_spec (byte_shiftLeft_one_toNat (reg s x)) (msbFlag_toNat (reg s x))⟩

end Sys2Proof.Machine
end

section
/-! SUPPORT. The index register and the memory transfers (spec/43_index_memory.md R140 to R146): a stored byte read back
at its offset, a loaded register at its place, and the halt of a transfer out of range. -/

namespace Sys2Proof.Machine

variable {s : State} {i : Instr} {x j : Reg}

/-! ### The index register -/

/-- What the three writers of `I` share: the value as a number, and nothing else changed. -/
theorem setIndex_toNat_spec {w : Word} {n : Nat} (hn : w.toNat = n) :
    (setIndex s w).index.toNat = n ∧ Frame { index := true } s (setIndex s w) :=
  ⟨hn, frame_setIndex rfl w⟩

/-- The sum of `Fx1E` keeps its low 16 bits (R141, D5). -/
theorem index_add_zextByte_toNat (w : Word) (b : Byte) :
    (w + zextByte b).toNat = (w.toNat + b.toNat) % 65536 := by
  rw [BitVec.toNat_add, zextByte_toNat]

theorem byte_lowNibble_toNat (b : Byte) : (b &&& 0x0F#8).toNat = b.toNat % 16 :=
  (BitVec.toNat_and b 0x0F#8).trans (Nat.and_two_pow_sub_one_eq_mod b.toNat 4)

/-- A glyph address is at most 75, so the product of `Fx29` does not wrap (R142). -/
theorem glyphAddr_toNat (b : Byte) : (5#16 * zextByte (b &&& 0x0F#8)).toNat = 5 * (b.toNat % 16) := by
  rw [BitVec.toNat_mul, zextByte_toNat, byte_lowNibble_toNat, BitVec.toNat_ofNat]
  omega

/-- Settles O34: the immediate, the 16-bit sum and the glyph address as numbers. -/
theorem indexRegisterWrites : Obligations.IndexRegisterWrites := fun nnn x s =>
  ⟨⟨decodeOfEncode (.ldI nnn) rfl, _, rfl, setIndex_toNat_spec (zextAddr_toNat nnn)⟩,
    ⟨decodeOfEncode (.addI x) rfl, _, rfl, setIndex_toNat_spec (index_add_zextByte_toNat s.index (reg s x))⟩,
    decodeOfEncode (.ldF x) rfl, _, rfl, setIndex_toNat_spec (glyphAddr_toNat (reg s x))⟩

/-! ### Transfers out of range (R146, D3) -/

/-- A halting instruction records its kind, `PC` and its own word, and writes nothing else (R94, R179). -/
theorem exec_halt_spec {k : HaltKind} (hk : haltOf s i = some k) :
    ∃ t, exec i s = .next t ∧ t.halt = some ⟨k, s.pc, some (encode i)⟩ ∧ Frame { halt := true } s t :=
  ⟨_, exec_of_haltOf hk, rfl, frame_setHalt rfl _⟩

theorem not_inMemory_of_gt {k : Nat} (hgt : s.index.toNat + k > 0xFFF) : ¬ inMemory s k = true :=
  mt (inMemory_iff s k).1 (Nat.not_le.2 hgt)

theorem haltOf_ldB_eq_none : haltOf s (.ldB x) = none ↔ s.index.toNat + 2 ≤ 0xFFF := by
  simp [haltOf, ← inMemory_iff]

theorem haltOf_loadRegs_eq_none : haltOf s (.loadRegs x) = none ↔ s.index.toNat + x.val ≤ 0xFFF := by
  simp [haltOf, ← inMemory_iff]

/-! ### Decimal digits -/

/-- A block stored at `I` reads back byte for byte at `I + k`. -/
theorem readByte_storedBlock {bs : List Byte} {k : Nat} (hk : k < bs.length) :
    readByte (setMem s (memWriteList s.mem (effAddr s 0) bs)) (effAddr s k) = bs.getD k 0#8 := by
  have hin : effAddr s 0 ≤ effAddr s k ∧ effAddr s k < effAddr s 0 + bs.length := by
    simp only [effAddr]
    omega
  have hoff : effAddr s k - effAddr s 0 = k := Nat.add_sub_cancel_left s.index.toNat k
  rw [readByte_setMem, memRead_memWriteList, if_pos hin, hoff]

/-- Each decimal digit of a byte is below 256, so its byte holds it exactly (R143). -/
theorem bcdDigits_toNat (b : Byte) :
    ((bcdDigits b).getD 0 0#8).toNat = b.toNat / 100 ∧ ((bcdDigits b).getD 1 0#8).toNat = b.toNat / 10 % 10 ∧
      ((bcdDigits b).getD 2 0#8).toNat = b.toNat % 10 := by
  have hlt : b.toNat < 256 := b.isLt
  have hexact : ∀ n < 256, (BitVec.ofNat 8 n).toNat = n := fun n hn =>
    (BitVec.toNat_ofNat n 8).trans (Nat.mod_eq_of_lt hn)
  exact ⟨hexact _ (by omega), hexact _ (by omega), hexact _ (by omega)⟩

/-- Settles O35: in range the three digits are the stored block, out of range the halt of `haltOf`. -/
theorem decimalDigitsStored : Obligations.DecimalDigitsStored := by
  refine fun x s => ⟨decodeOfEncode (.ldB x) rfl, fun hlast => ?_, fun hgt => ?_⟩
  · have hc := haltOf_ldB_eq_none (x := x).2 hlast
    obtain ⟨-, hexec⟩ := exec_ldB_of_completes hc
    obtain ⟨hhundreds, htens, hunits⟩ := bcdDigits_toNat (reg s x)
    refine ⟨_, hexec, ?_, ?_, ?_, exec_frame hc hexec⟩
    · rw [readByte_storedBlock (by simp [bcdDigits_length]), hhundreds]
    · rw [readByte_storedBlock (by simp [bcdDigits_length]), htens]
    · rw [readByte_storedBlock (by simp [bcdDigits_length]), hunits]
  · exact exec_halt_spec (if_neg (not_inMemory_of_gt hgt))

/-! ### Block transfers -/

/-- Settles O36: in range each register stands at its offset of the block, out of range the halt of `haltOf`. -/
theorem registersStored : Obligations.RegistersStored := by
  refine fun x s => ⟨decodeOfEncode (.storeRegs x) rfl, fun hlast => ?_, fun hgt => ?_⟩
  · have hc := haltOf_storeRegs_eq_none.2 hlast
    obtain ⟨-, hexec⟩ := exec_storeRegs_of_completes hc
    exact ⟨_, hexec, fun _ hj => memRead_memWriteList_regsUpTo s.mem s.index.toNat hj, exec_frame hc hexec⟩
  · exact exec_halt_spec (if_neg (not_inMemory_of_gt hgt))

/-- Up to `Vx` a block load gives the bytes of the block (R145). -/
theorem reg_loaded_of_le (hj : j ≤ x) :
    reg (setRegs s (loadedRegs s x)) j = readByte s (effAddr s j.val) :=
  (loadedRegs_get s x j).trans (if_pos hj)

/-- Above `Vx` a block load leaves the register as it was (R145). -/
theorem reg_loaded_of_gt (hj : x < j) : reg (setRegs s (loadedRegs s x)) j = reg s j :=
  (loadedRegs_get s x j).trans (if_neg (Fin.not_le.2 hj))

/-- Settles O37: in range the loaded register file, out of range the halt of `haltOf`. -/
theorem registersLoaded : Obligations.RegistersLoaded := by
  refine fun x s => ⟨decodeOfEncode (.loadRegs x) rfl, fun hlast => ?_, fun hgt => ?_⟩
  · have hexec := exec_loadRegs_of_completes (haltOf_loadRegs_eq_none.2 hlast)
    exact ⟨_, hexec, fun _ => reg_loaded_of_le, fun _ => reg_loaded_of_gt,
      frame_setRegs fun r hr => absurd (List.mem_finRange r) hr⟩
  · exact exec_halt_spec (if_neg (not_inMemory_of_gt hgt))

/-- Settles O38: the store leaves `I`, so the load reads the block the store wrote. -/
theorem storeThenLoad : Obligations.StoreThenLoad := by
  intro x s w hlast
  obtain ⟨-, hstore⟩ := exec_storeRegs_of_completes (haltOf_storeRegs_eq_none.2 hlast)
  refine ⟨_, _, hstore, exec_loadRegs_of_completes (haltOf_loadRegs_eq_none.2 hlast), fun j hj => ?_,
    fun _ => reg_loaded_of_gt, rfl⟩
  rw [reg_loaded_of_le hj]
  exact memRead_memWriteList_regsUpTo s.mem s.index.toNat hj

end Sys2Proof.Machine
end

section
/-! SUPPORT. The display (spec/44_display.md R150 to R156): a sprite as a mask XORed onto the surface, built from its
pixels, which lie apart, row by row. -/

namespace Sys2Proof.Machine

variable {s t : State} {c c' c'' : Display × Bool} {m m' : Nat → Nat → Bool}

/-- Settles O41: the surface becomes the blank one. -/
theorem clearTurnsAllOff : Obligations.ClearTurnsAllOff :=
  ⟨decodeOfEncode .cls rfl, fun _ => ⟨_, rfl, pixelOf_blankDisplay, frame_setDisp rfl _⟩⟩

/-! ### A mask XORed onto the surface (R151) -/

/-- A lit pixel of the surface meets a 1 bit of the mask. -/
def Collides (m : Nat → Nat → Bool) (d : Display) : Prop :=
  ∃ px py, px < 64 ∧ py < 32 ∧ pixelOf d px py = true ∧ m px py = true

/-- From `c` to `c'` the mask has been XORed onto the surface, and its collisions added to those seen before. -/
structure Composites (m : Nat → Nat → Bool) (c c' : Display × Bool) : Prop where
  pixel_eq : ∀ px py, px < 64 → py < 32 → pixelOf c'.1 px py = (pixelOf c.1 px py ^^ m px py)
  hit_iff : c'.2 = true ↔ c.2 = true ∨ Collides m c.1

theorem collides_or (d : Display) :
    Collides (fun px py => m px py || m' px py) d ↔ Collides m d ∨ Collides m' d := by
  simp only [Collides, Bool.or_eq_true, and_or_left, exists_or]

theorem Composites.refl (c : Display × Bool) : Composites (fun _ _ => false) c c :=
  ⟨fun _ _ _ _ => (Bool.xor_false _).symm, by simp [Collides]⟩

/-- A mask apart from one XORed before meets the same lit pixels as it would have met then. -/
theorem Composites.collides_iff (h : Composites m c c') (hapart : ∀ px py, m' px py = true → m px py = false) :
    Collides m' c'.1 ↔ Collides m' c.1 := by
  have hsame : ∀ px py, px < 64 → py < 32 → m' px py = true → pixelOf c'.1 px py = pixelOf c.1 px py := by
    intro px py hx hy hm
    rw [h.pixel_eq px py hx hy, hapart px py hm, Bool.xor_false]
  constructor
  · rintro ⟨px, py, hx, hy, hlit, hm⟩
    exact ⟨px, py, hx, hy, (hsame px py hx hy hm).symm.trans hlit, hm⟩
  · rintro ⟨px, py, hx, hy, hlit, hm⟩
    exact ⟨px, py, hx, hy, (hsame px py hx hy hm).trans hlit, hm⟩

/-- Two masks apart from each other, XORed one after the other, are their union XORed at once. -/
theorem Composites.trans (h : Composites m c c') (h' : Composites m' c' c'')
    (hapart : ∀ px py, m' px py = true → m px py = false) :
    Composites (fun px py => m px py || m' px py) c c'' := by
  refine ⟨fun px py hx hy => ?_, ?_⟩
  · rw [h'.pixel_eq px py hx hy, h.pixel_eq px py hx hy, Bool.xor_assoc]
    cases hm : m' px py with
    | false => rw [Bool.xor_false, Bool.or_false]
    | true => rw [hapart px py hm, Bool.false_xor, Bool.false_or]
  · rw [h'.hit_iff, h.hit_iff, h.collides_iff hapart, collides_or, or_assoc]

/-! ### Pixels, rows, the sprite -/

/-- One pixel of a sprite as a mask. -/
def dotMask (qx qy : Nat) (on : Bool) (px py : Nat) : Bool := decide (px = qx ∧ py = qy) && on

/-- The first `w` pixels of a sprite row as a mask. -/
def rowMask (ox oy : Nat) (b : Byte) (w px py : Nat) : Bool :=
  decide (ox ≤ px ∧ px < ox + w ∧ py = oy) && spriteBit b (px - ox)

theorem composites_plot (qx qy : Nat) (on : Bool) (c : Display × Bool) :
    Composites (dotMask qx qy on) c (plot qx qy on c) := by
  refine ⟨fun px py hx hy => ?_, ?_⟩
  · rw [pixelOf_plot]
    by_cases hq : px = qx ∧ py = qy
    · obtain ⟨rfl, rfl⟩ := hq
      simp [dotMask, hx, hy]
    · simp [dotMask, hq]
  · have hdot : Collides (dotMask qx qy on) c.1 ↔ (qx < 64 ∧ qy < 32) ∧ pixelOf c.1 qx qy = true ∧ on = true := by
      simp only [Collides, dotMask, Bool.and_eq_true, decide_eq_true_iff]
      constructor
      · rintro ⟨_, _, hx, hy, hlit, ⟨rfl, rfl⟩, hon⟩
        exact ⟨⟨hx, hy⟩, hlit, hon⟩
      · rintro ⟨⟨hx, hy⟩, hlit, hon⟩
        exact ⟨qx, qy, hx, hy, hlit, ⟨rfl, rfl⟩, hon⟩
    rw [plot_hit, hdot, Bool.or_eq_true, Bool.and_eq_true, Bool.and_eq_true, decide_eq_true_iff]

theorem rowMask_zero (ox oy : Nat) (b : Byte) : rowMask ox oy b 0 = fun _ _ => false := by
  funext px py
  have hno : ¬ (ox ≤ px ∧ px < ox + 0 ∧ py = oy) := by omega
  rw [rowMask, decide_eq_false hno, Bool.false_and]

theorem rowMask_succ (ox oy : Nat) (b : Byte) (w : Nat) :
    rowMask ox oy b (w + 1) = fun px py => rowMask ox oy b w px py || dotMask (ox + w) oy (spriteBit b w) px py := by
  funext px py
  by_cases hlast : px = ox + w
  · subst hlast
    simp [rowMask, dotMask]
  · have hiff : (ox ≤ px ∧ px < ox + (w + 1) ∧ py = oy) ↔ (ox ≤ px ∧ px < ox + w ∧ py = oy) := by omega
    simp [rowMask, dotMask, hlast, hiff]

theorem composites_plots (ox oy : Nat) (b : Byte) (c : Display × Bool) (w : Nat) :
    Composites (rowMask ox oy b w) c
      ((List.range w).foldl (fun c col => plot (ox + col) oy (spriteBit b col) c) c) := by
  induction w with
  | zero => rw [rowMask_zero]; exact .refl c
  | succ w ih =>
    rw [rowMask_succ, List.range_succ, List.foldl_append]
    refine ih.trans (composites_plot _ _ _ _) fun px py hdot => ?_
    simp only [dotMask, Bool.and_eq_true, decide_eq_true_iff] at hdot
    simp [rowMask, hdot]

theorem spriteCovers_zero (s : State) (ox oy : Nat) : spriteCovers s ox oy 0 = fun _ _ => false := by
  funext px py
  have hno : ¬ (ox ≤ px ∧ px < ox + 8 ∧ oy ≤ py ∧ py < oy + 0) := by omega
  rw [spriteCovers, decide_eq_false hno, Bool.false_and]

theorem spriteCovers_succ (s : State) (ox oy n : Nat) :
    spriteCovers s ox oy (n + 1) = fun px py =>
      spriteCovers s ox oy n px py || rowMask ox (oy + n) (readByte s (effAddr s n)) 8 px py := by
  funext px py
  by_cases hlast : py = oy + n
  · subst hlast
    simp [spriteCovers, rowMask, spriteBit]
  · have hiff : (oy ≤ py ∧ py < oy + (n + 1)) ↔ (oy ≤ py ∧ py < oy + n) := by omega
    simp [spriteCovers, rowMask, hlast, hiff]

theorem composites_drawSprite (s : State) (ox oy : Nat) (c : Display × Bool) (n : Nat) :
    Composites (spriteCovers s ox oy n) c (drawSprite s.mem (effAddr s 0) ox oy n c) := by
  induction n with
  | zero => rw [spriteCovers_zero]; exact .refl c
  | succ n ih =>
    rw [spriteCovers_succ, drawSprite, List.range_succ, List.foldl_append]
    refine ih.trans (composites_plots _ _ _ _ _) fun px py hrow => ?_
    simp only [rowMask, Bool.and_eq_true, decide_eq_true_iff] at hrow
    simp [spriteCovers, hrow]

/-! ### The draw -/

theorem haltOf_drw_eq_none {x y : Reg} {n : Nat} :
    haltOf s (.drw x y n) = none ↔ n = 0 ∨ s.index.toNat + (n - 1) ≤ 0xFFF := by
  simp [haltOf, ← spriteInMemory_iff]

theorem reg_vf_setReg_flagByte (s : State) (hit : Bool) :
    reg (setReg s vf (flagByte hit)) vf = if hit = true then 1#8 else 0#8 := by
  rw [reg_setReg, if_pos rfl, flagByte_eq]

/-- Settles O42: in range the sprite's mask is XORed onto the surface, out of range the halt of `haltOf`. -/
theorem drawXorsSprite : Obligations.DrawXorsSprite := by
  refine fun x y n s => ⟨fun hn => decodeOfEncode (.drw x y n) (decide_eq_true hn), fun hlast => ?_, fun hn hgt => ?_⟩
  · have hc := haltOf_drw_eq_none (x := x) (y := y).2 hlast
    have hexec := exec_drw_of_completes hc
    obtain ⟨hpixel, hhit⟩ := composites_drawSprite s (reg s x).toNat (reg s y).toNat (s.disp, false) n
    refine ⟨_, hexec, hpixel, fun hmeet => ?_, fun hnone => ?_, exec_frame hc hexec⟩
    · rw [reg_vf_setReg_flagByte]
      exact if_pos (hhit.2 (.inr hmeet))
    · have hmiss : ¬ Collides (spriteCovers s (reg s x).toNat (reg s y).toNat n) s.disp :=
        fun ⟨px, py, hx, hy, hlit, hm⟩ => Bool.false_ne_true ((hnone px py hx hy hlit).symm.trans hm)
      rw [reg_vf_setReg_flagByte]
      exact if_neg fun hset => (hhit.1 hset).elim Bool.false_ne_true hmiss
  · have hout : ¬ spriteInMemory s n = true := by
      rw [spriteInMemory_iff]
      omega
    exact exec_halt_spec (if_neg hout)

theorem pixel_off_surface (s : State) {px py : Nat} (hoff : ¬ (px < 64 ∧ py < 32)) : pixel s px py = false :=
  dif_neg hoff

theorem pixel_eq_of_surface (h : ∀ px py, px < 64 → py < 32 → pixel t px py = pixel s px py) (px py : Nat) :
    pixel t px py = pixel s px py := by
  by_cases hon : px < 64 ∧ py < 32
  · obtain ⟨hx, hy⟩ := hon
    exact h px py hx hy
  · rw [pixel_off_surface t hon, pixel_off_surface s hon]

theorem spriteCovers_of_offscreen {ox oy n px py : Nat} (ho : 64 ≤ ox ∨ 32 ≤ oy) (hx : px < 64) (hy : py < 32) :
    spriteCovers s ox oy n px py = false := by
  have hno : ¬ (ox ≤ px ∧ px < ox + 8 ∧ oy ≤ py ∧ py < oy + n) := by omega
  rw [spriteCovers, decide_eq_false hno, Bool.false_and]

/-- Settles O43: on the surface the mask of O42 is empty. -/
theorem offscreenDrawDrawsNothing : Obligations.OffscreenDrawDrawsNothing := by
  intro x y n s hlast ho
  obtain ⟨-, hdraw, -⟩ := drawXorsSprite x y n s
  obtain ⟨t, hexec, hpixel, -, hmiss, -⟩ := hdraw hlast
  refine ⟨t, hexec, pixel_eq_of_surface fun px py hx hy => ?_, hmiss fun px py hx hy _ => ?_⟩
  · rw [hpixel px py hx hy, spriteCovers_of_offscreen ho hx hy, Bool.xor_false]
  · exact spriteCovers_of_offscreen ho hx hy

/-- The draw leaves `I` and memory, so the second draw has the sprite of the first. -/
theorem spriteCovers_of_frame (hf : Frame { regs := [vf], disp := true } s t) :
    t.index = s.index ∧ spriteCovers t = spriteCovers s := by
  obtain ⟨-, hindex, -, -, -, -, hmem, -⟩ := hf
  have hi : t.index = s.index := hindex rfl
  have hread : ∀ a, readByte t a = readByte s a := fun a => hmem a (.inr (Nat.zero_le a))
  refine ⟨hi, ?_⟩
  funext ox oy n px py
  simp only [spriteCovers, effAddr, hi, hread]

/-- Settles O44: O42 twice, with the same mask, which cancels. -/
theorem drawTwiceRestores : Obligations.DrawTwiceRestores := by
  intro x y n s hx hy hlast
  obtain ⟨-, hdraw, -⟩ := drawXorsSprite x y n s
  obtain ⟨t, hexec, hpixel, -, -, hf⟩ := hdraw hlast
  obtain ⟨hindex, hsprite⟩ := spriteCovers_of_frame hf
  have hrx : reg t x = reg s x := hf.reg_eq x (by simpa using hx)
  have hry : reg t y = reg s y := hf.reg_eq y (by simpa using hy)
  obtain ⟨-, hredraw, -⟩ := drawXorsSprite x y n t
  obtain ⟨u, hexec', hpixel', -⟩ := hredraw (hindex ▸ hlast)
  refine ⟨t, u, hexec, hexec', pixel_eq_of_surface fun px py hpx hpy => ?_⟩
  rw [hpixel' px py hpx hpy, hpixel px py hpx hpy, hsprite, hrx, hry, Bool.xor_assoc, Bool.xor_self, Bool.xor_false]

end Sys2Proof.Machine
end

section
/-! SUPPORT. The timer, sound and key-wait placeholders (spec/45_timer_key_placeholders.md R160 to R164): each word by
its encoding (O1). -/

namespace Sys2Proof.Machine

/-- Settles O45: `Fx07` is a data write of zero; the other three answer the state they were given, with no latch read
and nothing waited for (R164, D28). -/
theorem placeholdersDoNothing : Obligations.PlaceholdersDoNothing := fun x s =>
  ⟨⟨decodeOfEncode (.ldVxDT x) rfl, _, rfl, setReg_spec⟩,
    ⟨decodeOfEncode (.ldVxK x) rfl, s, rfl, .refl _ s⟩,
    ⟨decodeOfEncode (.ldDTVx x) rfl, s, rfl, .refl _ s⟩,
    decodeOfEncode (.ldSTVx x) rfl, s, rfl, .refl _ s⟩

end Sys2Proof.Machine
end

section
/-! SUPPORT. When a step halts (spec/60_exceptions.md R170, R178): the condition of each kind, over the instruction and
then over the step. -/

namespace Sys2Proof.Machine

variable {s t : State} {i : Instr}

/-! ### The kinds an instruction raises -/

theorem haltOf_eq_stackOverflow : haltOf s i = some .stackOverflow ↔ (∃ nnn, i = .call nnn) ∧ 16 ≤ s.stack.length := by
  cases i with
  | call nnn => simp [haltOf, stackFull_iff]
  | _ => simp [haltOf]

theorem haltOf_eq_stackUnderflow : haltOf s i = some .stackUnderflow ↔ i = .ret ∧ s.stack = [] := by
  cases i <;> simp [haltOf]

/-- `Dxyn` with no rows names no address, so it halts at no `I` (R58, D3, D4). -/
theorem haltOf_eq_memoryOutOfRange :
    haltOf s i = some .memoryOutOfRange ↔ ∃ k, highestOffset i = some k ∧ 0xFFF < s.index.toNat + k := by
  cases i with
  | drw x y n =>
    by_cases hn : n = 0 <;> simp [haltOf, highestOffset, spriteInMemory_iff, hn]
  | ldB _ =>
    simp [haltOf, highestOffset, inMemory_iff]
    omega
  | storeRegs _ | loadRegs _ => simp [haltOf, highestOffset, inMemory_iff]
  | _ => simp [haltOf, highestOffset]

/-- The word of an instruction is legal, so no instruction reports it (R173). -/
theorem haltOf_ne_invalidOpcode : haltOf s i ≠ some .invalidOpcode := by
  cases i <;> simp [haltOf]

/-- The conditions read the stack and `I`, which sampling and the pre-advance leave. -/
theorem haltOf_advance_hostInput : haltOf (advance (hostInput s)) i = haltOf s i := by cases i <;> rfl

/-! ### The kinds a step raises -/

/-- A step halts with the kind of its one failing test: the range of `PC`, the decoding, or the instruction's own. -/
theorem step_halts_with_iff (h : step s = .next t) (k : HaltKind) :
    (∃ r, t.halt = some r ∧ r.kind = k) ↔
      (0xFFF ≤ s.pc.toNat ∧ k = .programCounterOutOfRange) ∨
      (s.pc.toNat < 0xFFF ∧ (∃ e, decode (fetchWord s) = .error e) ∧ k = .invalidOpcode) ∨
      (s.pc.toNat < 0xFFF ∧ ∃ i, decode (fetchWord s) = .ok i ∧ haltOf s i = some k) := by
  obtain ⟨hrun, ⟨hpc, rfl⟩ | ⟨hpc, ⟨e, he⟩, rfl⟩ | ⟨hpc, i, hi, hx⟩⟩ := step_cases h
  · simp [hpc, hpc.not_gt, eq_comm]
  · simp [hpc, hpc.not_ge, he, eq_comm]
  · obtain hc | ⟨k', hk, rfl⟩ := exec_cases hx
    · have ht : t.halt = none := ((exec_frame hc hx).halt_eq (writesOf_halt _ i)).trans hrun
      rw [haltOf_advance_hostInput] at hc
      simp [hpc, hpc.not_ge, hi, ht, hc]
    · rw [haltOf_advance_hostInput] at hk
      simp [hpc, hpc.not_ge, hi, hk]

/-- Settles O12: at each kind, one disjunct of `step_halts_with_iff` remains. -/
theorem haltConditions : Obligations.HaltConditions := by
  intro s t h
  refine ⟨?_, ?_, ?_, ?_, ?_⟩
  · simp [step_halts_with_iff h, haltOf_ne_programCounterOutOfRange]
  · simp [step_halts_with_iff h, haltOf_ne_invalidOpcode]
  · simp [step_halts_with_iff h, haltOf_eq_stackOverflow]
  · simp [step_halts_with_iff h, haltOf_eq_stackUnderflow]
  · simp [step_halts_with_iff h, haltOf_eq_memoryOutOfRange]

end Sys2Proof.Machine
end

section
/-! SUPPORT. The canonical form of memory (log entry 8): its entries are the bytes that read unlike an unlisted
address, so the bytes read determine the list, and the default reset is the empty one. -/

namespace Sys2Proof.Machine

variable {m m' : Memory} {a : Nat} {b : Byte}

theorem memRead_of_forall_ne (h : ∀ c ∈ m, c.1 ≠ a) : memRead m a = unlistedByte a := by
  induction m with
  | nil => rfl
  | cons c m ih =>
    obtain ⟨hc, hm⟩ := List.forall_mem_cons.1 h
    rw [memRead, if_neg hc, ih hm]

/-- Among rising addresses the first entry for an address is the only one. -/
theorem memRead_of_mem (hs : m.Pairwise fun c d => c.1 < d.1) (h : (a, b) ∈ m) : memRead m a = b := by
  induction m with
  | nil => cases h
  | cons c m ih =>
    obtain ⟨hc, hm⟩ := List.pairwise_cons.1 hs
    obtain rfl | h := List.mem_cons.1 h
    · exact if_pos rfl
    · rw [memRead, if_neg (hc _ h).ne, ih hm h]

/-- The entries of a canonical memory, by what it reads as. -/
theorem Memory.wf.mem_iff (h : Memory.wf m) : (a, b) ∈ m ↔ memRead m a = b ∧ b ≠ unlistedByte a := by
  obtain ⟨hs, hne⟩ := h
  constructor
  · intro hab
    exact ⟨memRead_of_mem hs hab, (hne _ hab).2⟩
  · rintro ⟨rfl, hb⟩
    obtain ⟨⟨k, c⟩, hkc, rfl⟩ : ∃ d ∈ m, d.1 = a := by
      by_contra hnone
      push Not at hnone
      exact hb (memRead_of_forall_ne hnone)
    rwa [memRead_of_mem hs hkc]

/-- Settles O40: the two memories have the same entries, and a strictly rising list is determined by its entries. -/
theorem canonicalMemoryIsUnique : Obligations.CanonicalMemoryIsUnique := by
  intro m m' hm hm' hread
  have hmem : ∀ c, c ∈ m ↔ c ∈ m' := fun (a, b) => by rw [hm.mem_iff, hm'.mem_iff, hread]
  exact hm.1.eq_of_mem_iff hm'.1 hmem

/-! ### Reset -/

theorem resetMemory_wf (font : Vector Byte Config.fontSize) (initRam : Nat → Byte) {program : List Byte}
    (h : program.length ≤ 0xDFF) : Memory.wf (resetMemory font initRam program) := by
  have hinit := memWriteList_wf ((List.range Config.memSize).map initRam) [] 0 reset_memory_wf (by simp)
  have hfont := memWriteList_wf font.toList _ 0 hinit (by simp [Config.fontSize, Config.memSize])
  exact memWriteList_wf program _ Config.progBase hfont (by simp only [Config.progBase, Config.memSize]; omega)

/-- The bytes after the font are the default `INIT_RAM` (R54). -/
theorem unlistedByte_of_font_le (h : 80 ≤ a) : unlistedByte a = 0x00#8 :=
  List.getD_eq_default _ _ h

theorem defaultFont_getD (h : a < 80) : defaultFont.toList.getD a 0x00#8 = unlistedByte a := by
  rw [List.getD_eq_getElem _ _ (by simpa using h)]
  simp [defaultFont]

theorem memRead_resetMemory_default (a : Nat) :
    memRead (resetMemory defaultFont (fun _ => 0x00#8) []) a = unlistedByte a := by
  have hprogram : ¬ (0x200 ≤ a ∧ a < 0x200 + ([] : List Byte).length) := by simp
  rw [memRead_resetMemory, if_neg hprogram]
  split_ifs with hfont hsize
  · exact defaultFont_getD hfont
  · exact (unlistedByte_of_font_le (Nat.not_lt.1 hfont)).symm
  · rfl

/-- Settles O47: the default reset reads as the empty memory everywhere, so it is the empty memory (O40). -/
theorem resetIsDefaultReset : Obligations.ResetIsDefaultReset := by
  have hlen : ([] : List Byte).length ≤ 0xDFF := Nat.zero_le _
  have hmem : resetMemory defaultFont (fun _ => 0x00#8) [] = [] :=
    canonicalMemoryIsUnique _ _ (resetMemory_wf _ _ hlen) reset_memory_wf memRead_resetMemory_default
  rw [Obligations.ResetIsDefaultReset, resetWith_eq_some hlen, hmem]
  rfl

end Sys2Proof.Machine
end
